-- ==== Sys2Proof/Word.lean ====
section
/-! DEFINITION. The words of HUFF-CORE (spec/00_scope.md R11, spec/30_encoding.md R130): bytes, symbols, node indices,
64-bit values and the command, a 32-bit word CMD with a 64-bit word D. -/

namespace Sys2Proof

/-- One byte of the byte source, the byte sink or the block buffer. -/
abbrev Byte := BitVec 8

/-- A symbol: one byte value 0x00..0xFF (00_scope.md R7, ALPHABET). -/
abbrev Sym := BitVec 8

/-- A 16-bit node index; 0xFFFF is NULL (20_memory.md R82). -/
abbrev NodeIx := BitVec 16

/-- A 64-bit value: a count, a frequency, a register value, a result. -/
abbrev Value := BitVec 64

/-- A command as the host presents it on the command port (30_encoding.md R130). -/
structure Command where
  cmd : BitVec 32
  d   : BitVec 64
deriving DecidableEq, Repr

/-- A symbol is below 256, so it indexes HIST and CT without a check. -/
theorem sym_lt (x : Sym) : x.toNat < 256 := x.isLt

end Sys2Proof
end

