-- ==== Sys2Proof/Syntax.lean ====
section
/-! DEFINITION. The 48 commands of HUFF-CORE, one constructor per row of spec/opcode_table.json
(spec/30_encoding.md R134). Each operand has exactly the width of its live field (R131 to R133). -/

namespace Sys2Proof

/-- A command after decoding. Range checks on operand values are not encoding checks (30_encoding.md R133): an operand
holds whatever its field holds. -/
inductive Instr where
  -- control, 40_control.md
  | nop
  | reset
  | regRead (r : BitVec 16)
  | regWrite (r : BitVec 16) (v : BitVec 64)
  -- BitCode, 41_bitcode.md
  | bcClear
  | bcPush (bit : Bool)
  | bcPop
  | bcSize
  | bcIsEmpty
  | bcIsFull
  | bcRender
  -- priority queue, 42_pqueue.md
  | pqClear
  | pqEnq (n : NodeIx)
  | pqDeq
  | pqSize
  | pqIsEmpty
  | pqIsFull
  -- node stack, 43_nodestack.md
  | nsInit (c : BitVec 16)
  | nsPush (n : NodeIx)
  | nsPop
  | nsSize
  -- node arena, 44_tree.md
  | nodeLeaf (x : Sym) (f : BitVec 64)
  | nodeJoin (l r : NodeIx)
  | nodeRead (f : BitVec 8) (n : NodeIx)
  | release (n : NodeIx)
  -- histogram, 44_tree.md
  | histClear
  | histSet (x : Sym) (c : BitVec 64)
  | histAdd (x : Sym) (c : BitVec 64)
  | histGet (x : Sym)
  -- tree build, code table and dump, 44_tree.md and 45_tree_codes.md
  | build
  | codeTable
  | serialize
  | deserialize
  | ctLen (x : Sym)
  | ctBit (x : Sym) (k : BitVec 16)
  | ctLoadBc (x : Sym)
  -- bitstream, 46_bitstream.md
  | bsReset
  | setBit (k : BitVec 16)
  | clrBit (k : BitVec 16)
  | getBit (k : BitVec 16)
  | readBit
  | writeCode (x : Sym)
  | writeBc
  | flush
  | decSym
  | decodeAll
  -- container header, 47_container.md
  | hdrWrite
  | hdrRead
deriving DecidableEq, Repr

end Sys2Proof
end

