-- ==== Sys2Proof/WellFormed.lean ====
section
/-! DEFINITION. When a command is well-formed: its opcode is in the table and every reserved field is zero
(spec/30_encoding.md R132, R134, R136 to R138). The check is the opcode table itself (spec/opcode_table.json: match and
mask of CMD, and the reserved bits of D that the row's format gives), written apart from the decoder, so that the two can be
held against each other. The operands of Instr have exactly the widths of their fields, so every term of Instr is the
reading of a well-formed command; what can be ill-formed is a command. -/

namespace Sys2Proof

/-- One row of the opcode table: the bits of CMD that `mask` fixes read `pattern`, and the bits of D in `reserved` read 0. -/
structure OpcodeRow where
  pattern  : BitVec 32
  mask     : BitVec 32
  reserved : BitVec 64
deriving DecidableEq, Repr

/-- The rows of the unit with opcode high nibble 0x0 (R135). -/
def OpcodeRow.control : List OpcodeRow := [
  ⟨0x00000000, 0xFFFFFFFF, 0xFFFFFFFFFFFFFFFF⟩,   -- NOP, format N
  ⟨0x00000001, 0xFFFFFFFF, 0xFFFFFFFFFFFFFFFF⟩,   -- RESET, format N
  ⟨0x00000002, 0x0000FFFF, 0xFFFFFFFFFFFFFFFF⟩,   -- REG_READ, format B
  ⟨0x00000003, 0x0000FFFF, 0⟩    -- REG_WRITE, format BD
  ]

/-- The rows of the unit with opcode high nibble 0x1 (R135). -/
def OpcodeRow.bitCode : List OpcodeRow := [
  ⟨0x00000010, 0xFFFFFFFF, 0xFFFFFFFFFFFFFFFF⟩,   -- BC_CLEAR, format N
  ⟨0x00000011, 0xFFFFFEFF, 0xFFFFFFFFFFFFFFFF⟩,   -- BC_PUSH, format A
  ⟨0x00000012, 0xFFFFFFFF, 0xFFFFFFFFFFFFFFFF⟩,   -- BC_POP, format N
  ⟨0x00000013, 0xFFFFFFFF, 0xFFFFFFFFFFFFFFFF⟩,   -- BC_SIZE, format N
  ⟨0x00000014, 0xFFFFFFFF, 0xFFFFFFFFFFFFFFFF⟩,   -- BC_ISEMPTY, format N
  ⟨0x00000015, 0xFFFFFFFF, 0xFFFFFFFFFFFFFFFF⟩,   -- BC_ISFULL, format N
  ⟨0x00000016, 0xFFFFFFFF, 0xFFFFFFFFFFFFFFFF⟩    -- BC_RENDER, format N
  ]

/-- The rows of the unit with opcode high nibble 0x2 (R135). -/
def OpcodeRow.priorityQueue : List OpcodeRow := [
  ⟨0x00000020, 0xFFFFFFFF, 0xFFFFFFFFFFFFFFFF⟩,   -- PQ_CLEAR, format N
  ⟨0x00000021, 0x0000FFFF, 0xFFFFFFFFFFFFFFFF⟩,   -- PQ_ENQ, format B
  ⟨0x00000022, 0xFFFFFFFF, 0xFFFFFFFFFFFFFFFF⟩,   -- PQ_DEQ, format N
  ⟨0x00000023, 0xFFFFFFFF, 0xFFFFFFFFFFFFFFFF⟩,   -- PQ_SIZE, format N
  ⟨0x00000024, 0xFFFFFFFF, 0xFFFFFFFFFFFFFFFF⟩,   -- PQ_ISEMPTY, format N
  ⟨0x00000025, 0xFFFFFFFF, 0xFFFFFFFFFFFFFFFF⟩    -- PQ_ISFULL, format N
  ]

/-- The rows of the unit with opcode high nibble 0x3 (R135). -/
def OpcodeRow.nodeStack : List OpcodeRow := [
  ⟨0x00000030, 0x0000FFFF, 0xFFFFFFFFFFFFFFFF⟩,   -- NS_INIT, format B
  ⟨0x00000031, 0x0000FFFF, 0xFFFFFFFFFFFFFFFF⟩,   -- NS_PUSH, format B
  ⟨0x00000032, 0xFFFFFFFF, 0xFFFFFFFFFFFFFFFF⟩,   -- NS_POP, format N
  ⟨0x00000033, 0xFFFFFFFF, 0xFFFFFFFFFFFFFFFF⟩    -- NS_SIZE, format N
  ]

/-- The rows of the unit with opcode high nibble 0x4 (R135). -/
def OpcodeRow.nodeArena : List OpcodeRow := [
  ⟨0x00000040, 0xFFFF00FF, 0⟩,   -- NODE_LEAF, format AD
  ⟨0x00000041, 0x0000FFFF, 0xFFFFFFFFFFFF0000⟩,   -- NODE_JOIN, format BD
  ⟨0x00000042, 0x000000FF, 0xFFFFFFFFFFFFFFFF⟩,   -- NODE_READ, format AB
  ⟨0x00000043, 0x0000FFFF, 0xFFFFFFFFFFFFFFFF⟩    -- RELEASE, format B
  ]

/-- The rows of the unit with opcode high nibble 0x5 (R135). -/
def OpcodeRow.histogram : List OpcodeRow := [
  ⟨0x00000050, 0xFFFFFFFF, 0xFFFFFFFFFFFFFFFF⟩,   -- HIST_CLEAR, format N
  ⟨0x00000051, 0xFFFF00FF, 0⟩,   -- HIST_SET, format AD
  ⟨0x00000052, 0xFFFF00FF, 0⟩,   -- HIST_ADD, format AD
  ⟨0x00000053, 0xFFFF00FF, 0xFFFFFFFFFFFFFFFF⟩    -- HIST_GET, format A
  ]

/-- The rows of the unit with opcode high nibble 0x6 (R135). -/
def OpcodeRow.treeAndCodes : List OpcodeRow := [
  ⟨0x00000060, 0xFFFFFFFF, 0xFFFFFFFFFFFFFFFF⟩,   -- BUILD, format N
  ⟨0x00000061, 0xFFFFFFFF, 0xFFFFFFFFFFFFFFFF⟩,   -- CODETABLE, format N
  ⟨0x00000062, 0xFFFFFFFF, 0xFFFFFFFFFFFFFFFF⟩,   -- SERIALIZE, format N
  ⟨0x00000063, 0xFFFFFFFF, 0xFFFFFFFFFFFFFFFF⟩,   -- DESERIALIZE, format N
  ⟨0x00000064, 0xFFFF00FF, 0xFFFFFFFFFFFFFFFF⟩,   -- CT_LEN, format A
  ⟨0x00000065, 0x000000FF, 0xFFFFFFFFFFFFFFFF⟩,   -- CT_BIT, format AB
  ⟨0x00000066, 0xFFFF00FF, 0xFFFFFFFFFFFFFFFF⟩    -- CT_LOADBC, format A
  ]

/-- The rows of the unit with opcode high nibble 0x7 (R135). -/
def OpcodeRow.bitstream : List OpcodeRow := [
  ⟨0x00000070, 0xFFFFFFFF, 0xFFFFFFFFFFFFFFFF⟩,   -- BS_RESET, format N
  ⟨0x00000071, 0x0000FFFF, 0xFFFFFFFFFFFFFFFF⟩,   -- SETBIT, format B
  ⟨0x00000072, 0x0000FFFF, 0xFFFFFFFFFFFFFFFF⟩,   -- CLRBIT, format B
  ⟨0x00000073, 0x0000FFFF, 0xFFFFFFFFFFFFFFFF⟩,   -- GETBIT, format B
  ⟨0x00000074, 0xFFFFFFFF, 0xFFFFFFFFFFFFFFFF⟩,   -- READBIT, format N
  ⟨0x00000075, 0xFFFF00FF, 0xFFFFFFFFFFFFFFFF⟩,   -- WRITECODE, format A
  ⟨0x00000076, 0xFFFFFFFF, 0xFFFFFFFFFFFFFFFF⟩,   -- WRITEBC, format N
  ⟨0x00000077, 0xFFFFFFFF, 0xFFFFFFFFFFFFFFFF⟩,   -- FLUSH, format N
  ⟨0x00000078, 0xFFFFFFFF, 0xFFFFFFFFFFFFFFFF⟩,   -- DECSYM, format N
  ⟨0x00000079, 0xFFFFFFFF, 0xFFFFFFFFFFFFFFFF⟩    -- DECODE, format N
  ]

/-- The rows of the unit with opcode high nibble 0x8 (R135). -/
def OpcodeRow.container : List OpcodeRow := [
  ⟨0x00000080, 0xFFFFFFFF, 0xFFFFFFFFFFFFFFFF⟩,   -- HDR_WRITE, format N
  ⟨0x00000081, 0xFFFFFFFF, 0xFFFFFFFFFFFFFFFF⟩    -- HDR_READ, format N
  ]

/-- The opcode table, all 48 rows in the table's order. -/
def OpcodeRow.all : List OpcodeRow :=
  OpcodeRow.control ++ OpcodeRow.bitCode ++ OpcodeRow.priorityQueue ++ OpcodeRow.nodeStack ++ OpcodeRow.nodeArena ++ OpcodeRow.histogram ++ OpcodeRow.treeAndCodes ++ OpcodeRow.bitstream ++ OpcodeRow.container

/-- The command fits the row: fixed bits as the row fixes them, reserved bits of D zero. -/
def OpcodeRow.accepts (r : OpcodeRow) (c : Command) : Bool :=
  c.cmd &&& r.mask == r.pattern && c.d &&& r.reserved == 0

/-- A command passes the dispatch checks of R136 after the error halt's: its opcode is in the table and its reserved fields
are zero. -/
def Command.wellFormed (c : Command) : Bool := OpcodeRow.all.any (·.accepts c)

end Sys2Proof
end

