-- ==== Sys2Proof/Decode.lean ====
section
/-! DEFINITION. From a command to an instruction and back (spec/30_encoding.md R131 to R138). The decoder is total and
names why it rejects a command; the encoder writes the command of an instruction from the same field table. -/

namespace Sys2Proof

/-- OP = CMD[7:0] (R131). -/
def Command.op (c : Command) : BitVec 8 := c.cmd.extractLsb' 0 8

/-- A = CMD[15:8] (R131). -/
def Command.a (c : Command) : BitVec 8 := c.cmd.extractLsb' 8 8

/-- B = CMD[31:16] (R131). -/
def Command.b (c : Command) : BitVec 16 := c.cmd.extractLsb' 16 16

/-- The command with the given fields: `CMD = OP + A·2^8 + B·2^16` (R131). -/
def Command.make (op a : BitVec 8) (b : BitVec 16) (d : BitVec 64) : Command :=
  ⟨b ++ a ++ op, d⟩

/-- What the decoder answers: the instruction, or which check of R136 the command fails. -/
inductive Decoded where
  | instr (i : Instr)
  /-- The opcode is not in the table (R137). -/
  | illegalOpcode
  /-- A reserved field is not zero (R138). -/
  | reservedField
deriving DecidableEq, Repr

/-- Format N: A, B and D reserved (R132). -/
def formatN (c : Command) (i : Instr) : Decoded :=
  if c.a = 0 ∧ c.b = 0 ∧ c.d = 0 then .instr i else .reservedField

/-- Format A: B and D reserved. -/
def formatA (c : Command) (f : BitVec 8 → Instr) : Decoded :=
  if c.b = 0 ∧ c.d = 0 then .instr (f c.a) else .reservedField

/-- Format B: A and D reserved. -/
def formatB (c : Command) (f : BitVec 16 → Instr) : Decoded :=
  if c.a = 0 ∧ c.d = 0 then .instr (f c.b) else .reservedField

/-- Format AB: D reserved. -/
def formatAB (c : Command) (f : BitVec 8 → BitVec 16 → Instr) : Decoded :=
  if c.d = 0 then .instr (f c.a c.b) else .reservedField

/-- Format AD: B reserved. -/
def formatAD (c : Command) (f : BitVec 8 → BitVec 64 → Instr) : Decoded :=
  if c.b = 0 then .instr (f c.a c.d) else .reservedField

/-- Format BD: A reserved. -/
def formatBD (c : Command) (f : BitVec 16 → BitVec 64 → Instr) : Decoded :=
  if c.a = 0 then .instr (f c.b c.d) else .reservedField

/-- Format A of BC_PUSH: A[7:1], B and D reserved; the operand is A[0] (R132). -/
def formatBit (c : Command) (f : Bool → Instr) : Decoded :=
  if c.a.extractLsb' 1 7 = 0 ∧ c.b = 0 ∧ c.d = 0 then .instr (f (c.a.getLsbD 0)) else .reservedField

/-- Format BD of NODE_JOIN: A and D[63:16] reserved; the second operand is D[15:0] (R132, R133). -/
def formatPair (c : Command) (f : BitVec 16 → BitVec 16 → Instr) : Decoded :=
  if c.a = 0 ∧ c.d.extractLsb' 16 48 = 0 then .instr (f c.b (c.d.extractLsb' 0 16)) else .reservedField

/-- The opcode map (R134). An opcode not listed is illegal (R137). -/
def decode (c : Command) : Decoded :=
  match c.op with
  | 0x00#8 => formatN c .nop
  | 0x01#8 => formatN c .reset
  | 0x02#8 => formatB c .regRead
  | 0x03#8 => formatBD c .regWrite
  | 0x10#8 => formatN c .bcClear
  | 0x11#8 => formatBit c .bcPush
  | 0x12#8 => formatN c .bcPop
  | 0x13#8 => formatN c .bcSize
  | 0x14#8 => formatN c .bcIsEmpty
  | 0x15#8 => formatN c .bcIsFull
  | 0x16#8 => formatN c .bcRender
  | 0x20#8 => formatN c .pqClear
  | 0x21#8 => formatB c .pqEnq
  | 0x22#8 => formatN c .pqDeq
  | 0x23#8 => formatN c .pqSize
  | 0x24#8 => formatN c .pqIsEmpty
  | 0x25#8 => formatN c .pqIsFull
  | 0x30#8 => formatB c .nsInit
  | 0x31#8 => formatB c .nsPush
  | 0x32#8 => formatN c .nsPop
  | 0x33#8 => formatN c .nsSize
  | 0x40#8 => formatAD c .nodeLeaf
  | 0x41#8 => formatPair c .nodeJoin
  | 0x42#8 => formatAB c .nodeRead
  | 0x43#8 => formatB c .release
  | 0x50#8 => formatN c .histClear
  | 0x51#8 => formatAD c .histSet
  | 0x52#8 => formatAD c .histAdd
  | 0x53#8 => formatA c .histGet
  | 0x60#8 => formatN c .build
  | 0x61#8 => formatN c .codeTable
  | 0x62#8 => formatN c .serialize
  | 0x63#8 => formatN c .deserialize
  | 0x64#8 => formatA c .ctLen
  | 0x65#8 => formatAB c .ctBit
  | 0x66#8 => formatA c .ctLoadBc
  | 0x70#8 => formatN c .bsReset
  | 0x71#8 => formatB c .setBit
  | 0x72#8 => formatB c .clrBit
  | 0x73#8 => formatB c .getBit
  | 0x74#8 => formatN c .readBit
  | 0x75#8 => formatA c .writeCode
  | 0x76#8 => formatN c .writeBc
  | 0x77#8 => formatN c .flush
  | 0x78#8 => formatN c .decSym
  | 0x79#8 => formatN c .decodeAll
  | 0x80#8 => formatN c .hdrWrite
  | 0x81#8 => formatN c .hdrRead
  | _ => .illegalOpcode

/-- The command of an instruction (R131 to R134): its fields where the format puts them, 0 in every reserved field. -/
def encode (i : Instr) : Command :=
  match i with
  | .nop => Command.make 0x00 0 0 0
  | .reset => Command.make 0x01 0 0 0
  | .regRead n => Command.make 0x02 0 n 0
  | .regWrite n v => Command.make 0x03 0 n v
  | .bcClear => Command.make 0x10 0 0 0
  | .bcPush bit => Command.make 0x11 (if bit then 1 else 0) 0 0
  | .bcPop => Command.make 0x12 0 0 0
  | .bcSize => Command.make 0x13 0 0 0
  | .bcIsEmpty => Command.make 0x14 0 0 0
  | .bcIsFull => Command.make 0x15 0 0 0
  | .bcRender => Command.make 0x16 0 0 0
  | .pqClear => Command.make 0x20 0 0 0
  | .pqEnq n => Command.make 0x21 0 n 0
  | .pqDeq => Command.make 0x22 0 0 0
  | .pqSize => Command.make 0x23 0 0 0
  | .pqIsEmpty => Command.make 0x24 0 0 0
  | .pqIsFull => Command.make 0x25 0 0 0
  | .nsInit n => Command.make 0x30 0 n 0
  | .nsPush n => Command.make 0x31 0 n 0
  | .nsPop => Command.make 0x32 0 0 0
  | .nsSize => Command.make 0x33 0 0 0
  | .nodeLeaf x v => Command.make 0x40 x 0 v
  | .nodeJoin l r => Command.make 0x41 0 l (r.setWidth 64)
  | .nodeRead x n => Command.make 0x42 x n 0
  | .release n => Command.make 0x43 0 n 0
  | .histClear => Command.make 0x50 0 0 0
  | .histSet x v => Command.make 0x51 x 0 v
  | .histAdd x v => Command.make 0x52 x 0 v
  | .histGet x => Command.make 0x53 x 0 0
  | .build => Command.make 0x60 0 0 0
  | .codeTable => Command.make 0x61 0 0 0
  | .serialize => Command.make 0x62 0 0 0
  | .deserialize => Command.make 0x63 0 0 0
  | .ctLen x => Command.make 0x64 x 0 0
  | .ctBit x n => Command.make 0x65 x n 0
  | .ctLoadBc x => Command.make 0x66 x 0 0
  | .bsReset => Command.make 0x70 0 0 0
  | .setBit n => Command.make 0x71 0 n 0
  | .clrBit n => Command.make 0x72 0 n 0
  | .getBit n => Command.make 0x73 0 n 0
  | .readBit => Command.make 0x74 0 0 0
  | .writeCode x => Command.make 0x75 x 0 0
  | .writeBc => Command.make 0x76 0 0 0
  | .flush => Command.make 0x77 0 0 0
  | .decSym => Command.make 0x78 0 0 0
  | .decodeAll => Command.make 0x79 0 0 0
  | .hdrWrite => Command.make 0x80 0 0 0
  | .hdrRead => Command.make 0x81 0 0 0

/-- The command whose bits are w, bit 0 the least significant bit of CMD and D's bits counted on from bit 32; the bits at or
above nbits are 0 (the numbering of spec/opcode_table.json). -/
def tableCommand (nbits w : Nat) : Command :=
  ⟨BitVec.ofNat 32 (w % 2 ^ nbits), BitVec.ofNat 64 (w % 2 ^ nbits / 2 ^ 32)⟩

/-- The instruction the decoder reads from the bits w, or none where it refuses. -/
def decodeTableWord (nbits w : Nat) : Option Instr :=
  match decode (tableCommand nbits w) with
  | .instr i => some i
  | .illegalOpcode => none
  | .reservedField => none

end Sys2Proof
end

