-- ==== Sys2Proof/Config.lean ====
section
/-! DEFINITION. What an implementation fixes (spec/00_scope.md R7): the fixed parameters as numbers, the two OPEN parameters
as opaque constants, and the free values the rules leave open (R14, `draw()`; spec/93_implementation_defined.md I1, I3), which
no proof can evaluate. -/

namespace Sys2Proof

/-- The OPEN parameters of R7: BLOCK_BYTES in 1..8192, held less one so that the bound is in the type, and MAGIC. -/
structure Params where
  blockBytesPred : Fin 8192
  magic          : BitVec 32
deriving DecidableEq, Repr, Inhabited

/-- BLOCK_BYTES (R7). -/
def Params.blockBytes (p : Params) : Nat := p.blockBytesPred.val + 1

/-- B8 = 8·BLOCK_BYTES, the number of bits of the block buffer (46_bitstream.md). -/
def Params.bufBits (p : Params) : Nat := 8 * p.blockBytes

/-- The bits of a full-size buffer image that exist in a block with parameters p. -/
def Params.clip (p : Params) (b : BitVec 65536) : BitVec 65536 :=
  (b.setWidth p.bufBits).setWidth 65536

/-- The parameters of the block that `State.reset` describes: no value is given (R7, OPEN), none can be proved. -/
opaque Config.params : Params

/-- The n-th `draw()` of one bit (R14, R319: the padding bits of FLUSH): under no law. -/
opaque Config.freeBit : Nat → Bool

/-- The n-th contents a reset leaves in the block buffer (10_state.md R46, I3): under no law. -/
opaque Config.freeBuf : Nat → BitVec 65536

/-- PQ_N (R7): the priority queue's capacity in entries. -/
abbrev pqN : Nat := 256

/-- NODE_CAP (R7): the node arena's slots. -/
abbrev nodeCap : Nat := 511

/-- NULL (R7): the node index that means no node. -/
def nullNode : NodeIx := 0xFFFF

/-- DUMP_MAX (R7). -/
def dumpMax : Nat := 767

/-- NS_MAX (R7). -/
abbrev nsMax : Nat := 767

/-- BC_CAP (R7): the capacity in bits of a BitCode. -/
def bcCap : Nat := 256

/-- PLACEHOLDER_SYM (R7): the symbol field of every internal node. -/
def placeholderSym : Sym := 0x24

/-- PLACEHOLDER_FREQ (R7): the frequency of every leaf the deserializer creates. -/
def placeholderFreq : Value := 0

/-- The constant of register ID (R3). -/
def idConstant : Value := 0x48554646

end Sys2Proof
end

