-- ==== Sys2Proof/Machine/State.lean ====
section
/-! DEFINITION. The state of HUFF-CORE (spec/10_state.md R30 to R49), the environment's side of its interface
(spec/00_scope.md R9), the reset state (spec/70_reset_and_hazards.md R381) and the reasons a step can stop. -/

namespace Sys2Proof.Machine

/-- The response codes (60_exceptions.md R351). Their numbers are `Code.num`. -/
inductive Code where
  | ok | full | empty | exhausted
  /-- The answer to a command refused in the error halt: never stored (R354). -/
  | halted
  | eIllegal | eOperand | ePrecond | eNoMem
  | eMagic | eDump | eTrunc | eDegen
  | eSink | eNoCode
deriving DecidableEq, Repr

/-- A response (CODE, VALUE) (30_encoding.md R130). -/
structure Response where
  code  : Code
  value : Value
deriving DecidableEq, Repr

/-- What reaches the block between two commands: a command of the host, or a power-on reset (R130, R380). -/
inductive HostEvent where
  | command (c : Command)
  | powerOn
deriving DecidableEq, Repr

/-- What the byte source does next (20_memory.md R95): supply a byte, end a read with a transfer of zero bytes, or never
answer (93_implementation_defined.md I9). How bytes are grouped into transfers is not observable. -/
inductive SourceEvent where
  | byte (b : Byte)
  | zeroTransfer
  | never
deriving DecidableEq, Repr

/-- What the byte sink does with the next byte offered (20_memory.md R96): accept it, end the write with a transfer that
accepts zero bytes, or never answer (I9). -/
inductive SinkEvent where
  | accept
  | zeroTransfer
  | never
deriving DecidableEq, Repr

/-- A BitCode value (00_scope.md R13): BITS[i] is bit i, for i below LEN; the bits at or above LEN carry no meaning. -/
structure BitCode where
  bits : BitVec 256
  len  : Nat
deriving DecidableEq, Repr

/-- A node slot (10_state.md R39). -/
structure Node where
  valid     : Bool
  sym       : Sym
  freq      : Value
  left      : NodeIx
  right     : NodeIx
  hasParent : Bool
deriving DecidableEq, Repr

/-- A priority queue slot (10_state.md R41): a node and its frequency at insertion. -/
structure PqSlot where
  node : NodeIx
  key  : Value
deriving DecidableEq, Repr

/-- A code table entry (10_state.md R45). -/
structure CtEntry where
  valid : Bool
  code  : BitCode
deriving DecidableEq, Repr

/-- The whole state: the engine's own (10_state.md R30), the instance's parameters, and the environment's side of the
interface. -/
structure State where
  /-- STATUS.CODE, STATUS[7:0] (R34). -/
  code     : Code
  /-- STATUS.ERR, STATUS[8]: the error halt (R34, R353). -/
  err      : Bool
  /-- RESULT (R35). -/
  result   : Value
  /-- HDR_PERMS, HDR_TSIZE, HDR_FSIZE (R36). -/
  hdrPerms : BitVec 16
  hdrTsize : BitVec 16
  hdrFsize : BitVec 64
  /-- ROOT (R37). -/
  root     : NodeIx
  /-- HIST (R38). -/
  hist     : Vector Value 256
  /-- ARENA (R39). -/
  arena    : Vector Node nodeCap
  /-- SLOT, HEAD, TAIL (R41). -/
  pqSlots  : Vector PqSlot 257
  pqHead   : Fin 257
  pqTail   : Fin 257
  /-- NSE, NS.TOP, NS.CAP (R43). -/
  nse      : Vector NodeIx nsMax
  nsTop    : Nat
  nsCap    : Nat
  /-- BC (R44). -/
  bc       : BitCode
  /-- CT (R45). -/
  ct       : Vector CtEntry 256
  /-- BUF (R46): bit i of the buffer is bit i, for i below 8·BLOCK_BYTES; no bit above is set (`Memory.wf`). -/
  buf      : BitVec 65536
  /-- WR_CUR, RD_CUR, RD_END (R47). -/
  wrCur    : Nat
  rdCur    : Nat
  rdEnd    : Nat
  /-- BLOCK_BYTES and MAGIC of this instance (00_scope.md R7): no step changes them. -/
  params   : Params
  /-- The model's own count of free values drawn (00_scope.md R14). -/
  draws    : Nat
  /-- The host's commands and power-on resets not yet taken, the next one first. -/
  port     : List HostEvent
  /-- The responses returned to the host, oldest first. -/
  resps    : List Response
  /-- What the byte source will do. After its last event every transfer is of zero bytes. -/
  source   : List SourceEvent
  /-- The number of bytes taken from the source (70_reset_and_hazards.md R395). -/
  taken    : Nat
  /-- What the byte sink will do with the bytes offered. After its last event every byte is accepted. -/
  sinkPlan : List SinkEvent
  /-- The bytes appended to the sink, oldest first. -/
  sink     : List Byte
deriving DecidableEq, Repr

/-- Why the machine is stuck. -/
inductive Fault where
  /-- The byte source never answers a transfer (70_reset_and_hazards.md R394, I9: stuck). Raised by HDR_READ, DESERIALIZE,
  READBIT, DECSYM, DECODE. Safe: the engine has no step until the channel answers. -/
  | sourceNeverAnswers
  /-- The byte sink never answers a transfer (R394, I9: stuck). Raised by BC_RENDER, SERIALIZE, WRITECODE, WRITEBC, FLUSH,
  DECODE, HDR_WRITE. Safe, as above. -/
  | sinkNeverAnswers
  /-- The nodes below the index are no finite tree of existing slots, against 10_state.md R40: a child index that names no
  slot, or a cycle, on which the rules' recursion has no end. Raised by RELEASE, CODETABLE, SERIALIZE, DECSYM, DECODE in
  states that no run reaches. Safe. -/
  | arenaNotForest
deriving DecidableEq, Repr

/-- Why an instruction is refused. -/
inductive Refusal where
  /-- The instruction has no meaning in the model yet. Raised by exec's arm alone. Safe. -/
  | notModelled (mnemonic : String)
deriving DecidableEq, Repr

/-- The outcome of one command. -/
abbrev Result := Host.Outcome State Fault Refusal

/-- A BitCode with no bits. -/
def BitCode.empty : BitCode := ⟨0, 0⟩

/-- A slot as reset leaves it: VALID = 0; the other fields are UNSPECIFIED (R39), here 0. -/
def Node.free : Node := ⟨false, 0, 0, 0, 0, false⟩

/-- The machine right after power-on (70_reset_and_hazards.md R381, R382): every item at its reset value, UNSPECIFIED storage
that no command reads before it is written at 0, the block buffer at free contents, and nothing sent by the host. -/
def State.reset : State where
  code     := .ok
  err      := false
  result   := 0
  hdrPerms := 0
  hdrTsize := 0
  hdrFsize := 0
  root     := nullNode
  hist     := Vector.replicate 256 0
  arena    := Vector.replicate nodeCap Node.free
  pqSlots  := Vector.replicate 257 ⟨0, 0⟩
  pqHead   := 0
  pqTail   := 0
  nse      := Vector.replicate nsMax 0
  nsTop    := 0
  nsCap    := 0
  bc       := BitCode.empty
  ct       := Vector.replicate 256 ⟨false, BitCode.empty⟩
  buf      := Config.params.clip (Config.freeBuf 0)
  wrCur    := 0
  rdCur    := 0
  rdEnd    := 0
  params   := Config.params
  draws    := 1
  port     := []
  resps    := []
  source   := []
  taken    := 0
  sinkPlan := []
  sink     := []

/-- The tree below a node, as the rules' recursions visit it (44_tree.md R246, 45_tree_codes.md R282, R288): each node's own
index, a leaf's symbol, an internal node's subtrees. -/
inductive NodeTree where
  | leaf (n : NodeIx) (x : Sym)
  | node (n : NodeIx) (l r : NodeTree)
deriving DecidableEq, Repr

/-- What write_bit ends in (46_bitstream.md R310): done, an error raised, or a sink that never answers. -/
inductive WriteRun where
  | done (s : State)
  | raised (s : State)
  | never

/-- What read_bit ends in (46_bitstream.md R311). -/
inductive BitRun where
  | bit (b : Bool) (s : State)
  | exhausted (s : State)
  | never

/-- What decode_symbol ends in (46_bitstream.md R320): the symbol, or exhaustion after j bits. -/
inductive SymRun where
  | symbol (x : Sym) (s : State)
  | exhausted (j : Nat) (s : State)
  | never

/-- What check_dump ends in (45_tree_codes.md R290): the leaf count, or the offset of the first fault. -/
inductive DumpCheck where
  | good (leaves : Nat)
  | bad (offset : Nat)
deriving DecidableEq, Repr

/-- The 17 control registers (10_state.md R33). -/
inductive Reg where
  | id | status | result | magic | hdrPerms | hdrTsize | hdrFsize | root | wrCur | rdCur | rdEnd
  | nodesUsed | nsCap | paramBlock | paramNodeCap | paramPqN | paramNsMax
deriving DecidableEq, Repr

/-- The field selectors of NODE_READ (44_tree.md R245). -/
inductive NodeField where
  | sym | freq | left | right | isLeaf | hasParent
deriving DecidableEq, Repr

end Sys2Proof.Machine
end

