-- ==== Sys2Proof/Machine/Ops.lean ====
section
/-! DEFINITION. The named operations every command is written with: ending a command (respond, fail, raise), reset, the node
arena, the priority queue, the node stack, BitCodes, the histogram, the code table, the block buffer and the two channels. -/

namespace Sys2Proof.Machine

/-! ## Ending a command -/

/-- Return a response without storing it (60_exceptions.md R354). -/
def State.reply (s : State) (code : Code) (v : Value) : State :=
  { s with resps := s.resps ++ [⟨code, v⟩] }

/-- `respond(code, v)` (60_exceptions.md R352): STATUS.CODE and RESULT are stored and returned; STATUS.ERR stays. -/
def State.respond (s : State) (code : Code) (v : Value) : State :=
  { s with code := code, result := v, resps := s.resps ++ [⟨code, v⟩] }

/-- `fail(code)` (00_scope.md R14). -/
def State.fail (s : State) (code : Code) : State := s.respond code 0

/-- `raise E_X(info)` (60_exceptions.md R353), the one way into the error halt: code and info stored and returned, ERR set,
everything the command had done so far kept. -/
def State.raise (s : State) (code : Code) (info : Value) : State :=
  { s with code := code, err := true, result := info, resps := s.resps ++ [⟨code, info⟩] }

/-- Reset (70_reset_and_hazards.md R381, R383), the one way out of the error halt: every state item to its reset value, the
buffer to contents the rules do not fix; the parameters and the environment's side stay. -/
def State.resetBlock (s : State) : State :=
  { State.reset with
    params := s.params, buf := s.params.clip (Config.freeBuf s.draws), draws := s.draws + 1,
    port := s.port, resps := s.resps, source := s.source, taken := s.taken, sinkPlan := s.sinkPlan, sink := s.sink }

/-- What the block does with a command that fails the encoding checks (30_encoding.md R136 to R138): HALTED in the error
halt, else E_ILLEGAL with the command word. -/
def State.refuseCommand (s : State) (c : Command) : State :=
  if s.err then s.reply .halted 0 else s.raise .eIllegal (c.cmd.setWidth 64)

/-- A number as a 64-bit value. -/
def value (n : Nat) : Value := BitVec.ofNat 64 n

/-! ## Bits and bytes -/

/-- x with bit i set to b. -/
def putBit {w : Nat} (x : BitVec w) (i : Nat) (b : Bool) : BitVec w :=
  if b then x ||| (1#w <<< i) else x &&& ~~~(1#w <<< i)

/-- The n least significant bytes of x, least significant first (`LE16`, `LE32`, `LE64`: 00_scope.md R12). -/
def leBytes (n : Nat) (x : Nat) : List Byte :=
  match n with
  | 0 => []
  | n + 1 => BitVec.ofNat 8 x :: leBytes n (x / 256)

/-- `fromLE` (00_scope.md R12). -/
def fromLe (bs : List Byte) : Nat :=
  match bs with
  | [] => 0
  | b :: rest => b.toNat + 256 * fromLe rest

/-! ## BitCodes (41_bitcode.md) -/

/-- `bc_push` (R180); none is FULL. -/
def BitCode.push (c : BitCode) (b : Bool) : Option BitCode :=
  if c.len = bcCap then none else some ⟨putBit c.bits c.len b, c.len + 1⟩

/-- `bc_pop` (R181); none is EMPTY. -/
def BitCode.pop (c : BitCode) : Option (Bool × BitCode) :=
  if c.len = 0 then none else some (c.bits.getLsbD (c.len - 1), { c with len := c.len - 1 })

/-- BITS[0], ..., BITS[LEN-1], in push order (00_scope.md R13). -/
def BitCode.toList (c : BitCode) : List Bool := (List.range c.len).map c.bits.getLsbD

/-! ## The node arena (44_tree.md) -/

/-- The slot an index names, if it names one (20_memory.md R82). -/
def State.slot? (s : State) (n : NodeIx) : Option Node :=
  if h : n.toNat < nodeCap then some s.arena[n.toNat] else none

/-- The fields of slot n, for an index that names a slot. -/
def State.node (s : State) (n : NodeIx) : Node := (s.slot? n).getD Node.free

/-- `valid(n)` (00_scope.md R15). -/
def State.valid (s : State) (n : NodeIx) : Bool := (s.slot? n).any (·.valid)

/-- `leaf(n)` for a slot's fields (00_scope.md R15). -/
def Node.isLeaf (nd : Node) : Bool := nd.left == nullNode && nd.right == nullNode

/-- Store the fields of slot n. -/
def State.setNode (s : State) (n : NodeIx) (nd : Node) : State :=
  if h : n.toNat < nodeCap then { s with arena := s.arena.set n.toNat nd } else s

/-- `free_slots()` (00_scope.md R15). -/
def State.freeSlots (s : State) : Nat := s.arena.toList.countP (fun nd => !nd.valid)

/-- `alloc()` (R240): the lowest free slot, NULL when there is none. -/
def State.alloc (s : State) : NodeIx :=
  let k := s.arena.toList.findIdx (fun nd => !nd.valid)
  if k < nodeCap then BitVec.ofNat 16 k else nullNode

/-- `make_leaf` (R241). -/
def State.makeLeaf (s : State) (x : Sym) (f : Value) : NodeIx × State :=
  let n := s.alloc
  (n, s.setNode n ⟨true, x, f, nullNode, nullNode, false⟩)

/-- ARENA[n].HASPARENT <- 1. -/
def State.adopt (s : State) (n : NodeIx) : State := s.setNode n { s.node n with hasParent := true }

/-- `join` (R242): the sum of the frequencies wraps modulo 2^64. -/
def State.join (s : State) (l r : NodeIx) : NodeIx × State :=
  let n := s.alloc
  let s₁ := s.setNode n ⟨true, placeholderSym, (s.node l).freq + (s.node r).freq, l, r, false⟩
  (n, (s₁.adopt l).adopt r)

/-- The tree below n, on paths of at most `fuel` nodes; none where a child names no slot or the path is longer. A path in an
arena without a cycle has at most NODE_CAP nodes. -/
def State.treeBelow (s : State) (fuel : Nat) (n : NodeIx) : Option NodeTree :=
  match fuel with
  | 0 => none
  | fuel + 1 =>
    match s.slot? n with
    | none => none
    | some nd =>
      if nd.isLeaf then some (.leaf n nd.sym)
      else
        match s.treeBelow fuel nd.left, s.treeBelow fuel nd.right with
        | some l, some r => some (.node n l r)
        | _, _ => none

/-- The tree rooted at n. -/
def State.treeAt (s : State) (n : NodeIx) : Option NodeTree := s.treeBelow nodeCap n

/-- The nodes in the order `release` frees them: postorder (R246). -/
def NodeTree.postorder : NodeTree → List NodeIx
  | .leaf n _ => [n]
  | .node n l r => l.postorder ++ r.postorder ++ [n]

/-- ARENA[n].VALID <- 0, and ROOT <- NULL if it names n (R246). The slot's other fields become UNSPECIFIED. -/
def State.freeNode (s : State) (n : NodeIx) : State :=
  let s₁ := s.setNode n { s.node n with valid := false }
  if s₁.root = n then { s₁ with root := nullNode } else s₁

/-- `release` (R246) of a whole tree: every node freed, in postorder. -/
def State.freeTree (s : State) (t : NodeTree) : State := t.postorder.foldl State.freeNode s

/-! ## The priority queue (42_pqueue.md) -/

/-- `pq_size()` = (TAIL − HEAD) mod 257 (R200). -/
def State.pqSize (s : State) : Nat := (s.pqTail - s.pqHead).val

/-- The shifting loop of `pq_enqueue` (R201): from slot i, with `count` entries between HEAD and i, move every entry of a key
greater than k one slot towards the tail; answer the slots and the slot that comes free. -/
def shiftUp (k : Value) (count : Nat) (i : Fin 257) (v : Vector PqSlot 257) : Vector PqSlot 257 × Fin 257 :=
  match count with
  | 0 => (v, i)
  | count + 1 =>
    if k < v[i - 1].key then shiftUp k count (i - 1) (v.set i.val v[i - 1]) else (v, i)

/-- `pq_enqueue` (R201); none is FULL. -/
def State.pqEnqueue (s : State) (n : NodeIx) : Option State :=
  if s.pqSize = pqN then none
  else
    let k := (s.node n).freq
    let (v, i) := shiftUp k s.pqSize s.pqTail s.pqSlots
    some { s with pqSlots := v.set i.val ⟨n, k⟩, pqTail := s.pqTail + 1 }

/-- `pq_dequeue` (R202); none is EMPTY. -/
def State.pqDequeue (s : State) : Option (NodeIx × State) :=
  if s.pqHead = s.pqTail then none
  else some (s.pqSlots[s.pqHead].node, { s with pqHead := s.pqHead + 1 })

/-! ## The node stack (43_nodestack.md) -/

/-- `ns_push` (R220); none is FULL. -/
def State.nsPush (s : State) (n : NodeIx) : Option State :=
  if s.nsTop = s.nsCap then none
  else some { s with nse := s.nse.setIfInBounds s.nsTop n, nsTop := s.nsTop + 1 }

/-- `ns_pop` (R221); none is EMPTY. -/
def State.nsPop (s : State) : Option (NodeIx × State) :=
  if s.nsTop = 0 then none
  else some (s.nse.toList.getD (s.nsTop - 1) nullNode, { s with nsTop := s.nsTop - 1 })

/-! ## Histogram and code table -/

/-- HIST[x] (20_memory.md R81). -/
def State.histAt (s : State) (x : Sym) : Value := s.hist[x.toNat]'(sym_lt x)

/-- HIST[x] <- v. -/
def State.setHist (s : State) (x : Sym) (v : Value) : State :=
  { s with hist := s.hist.set x.toNat v (sym_lt x) }

/-- CT[x] (20_memory.md R83). -/
def State.ctAt (s : State) (x : Sym) : CtEntry := s.ct[x.toNat]'(sym_lt x)

/-- CT[x] <- e. -/
def State.setCt (s : State) (x : Sym) (e : CtEntry) : State :=
  { s with ct := s.ct.set x.toNat e (sym_lt x) }

/-! ## The block buffer (20_memory.md R84, R85) -/

/-- B8 = 8·BLOCK_BYTES. -/
def State.bufBits (s : State) : Nat := s.params.bufBits

/-- BUF.bit(i). -/
def State.bufBit (s : State) (i : Nat) : Bool := s.buf.getLsbD i

/-- BUF.bit(i) <- b. -/
def State.setBufBit (s : State) (i : Nat) (b : Bool) : State := { s with buf := putBit s.buf i b }

/-- BUF.byte(j). -/
def State.bufByte (s : State) (j : Nat) : Byte := s.buf.extractLsb' (8 * j) 8

/-- The first n bytes of the buffer. -/
def State.bufBytes (s : State) (n : Nat) : List Byte := (List.range n).map s.bufByte

/-- The buffer with BUF.byte(j) set to b: bits 8j..8j+7. -/
def putByte (buf : BitVec 65536) (j : Nat) (b : Byte) : BitVec 65536 :=
  (buf &&& ~~~((0xFF : BitVec 65536) <<< (8 * j))) ||| (b.setWidth 65536 <<< (8 * j))

/-- The buffer with the bytes stored from byte j on. -/
def putBytes (buf : BitVec 65536) (j : Nat) (bs : List Byte) : BitVec 65536 :=
  match bs with
  | [] => buf
  | b :: rest => putBytes (putByte buf j b) (j + 1) rest

/-- The buffer's canonical form: no bit is set beyond its 8·BLOCK_BYTES bits, so that equal buffers are equal data. -/
abbrev Memory.wf (s : State) : Prop := s.buf.toNat < 2 ^ s.bufBits

/-! ## The byte channels (20_memory.md R95, R96) -/

/-- The bytes of SourceRead(n) from a source, and what the source will do after; none when it never answers. -/
def takeBytes (n : Nat) (src : List SourceEvent) : Option (List Byte × List SourceEvent) :=
  match n, src with
  | 0, src => some ([], src)
  | _ + 1, [] => some ([], [])
  | n + 1, .byte b :: rest =>
    match takeBytes n rest with
    | some (t, rest') => some (b :: t, rest')
    | none => none
  | _ + 1, .zeroTransfer :: rest => some ([], rest)
  | _ + 1, .never :: _ => none

/-- SourceRead(n) (R95): the bytes obtained, fewer than n only after a transfer of zero bytes. -/
def State.sourceRead (s : State) (n : Nat) : Option (List Byte × State) :=
  match takeBytes n s.source with
  | some (t, rest) => some (t, { s with source := rest, taken := s.taken + t.length })
  | none => none

/-- How many of the bytes the sink accepts, and what it will do after; none when it never answers. -/
def acceptBytes (bs : List Byte) (plan : List SinkEvent) : Option (Nat × List SinkEvent) :=
  match bs, plan with
  | [], plan => some (0, plan)
  | bs, [] => some (bs.length, [])
  | _ :: bs, .accept :: plan =>
    match acceptBytes bs plan with
    | some (w, plan') => some (w + 1, plan')
    | none => none
  | _ :: _, .zeroTransfer :: plan => some (0, plan)
  | _ :: _, .never :: _ => none

/-- SinkWrite(bs) (R96): the count accepted; the bytes accepted are appended to the sink in order. -/
def State.sinkWrite (s : State) (bs : List Byte) : Option (Nat × State) :=
  match acceptBytes bs s.sinkPlan with
  | some (w, plan) => some (w, { s with sinkPlan := plan, sink := s.sink ++ bs.take w })
  | none => none

/-- A command that ends with one SinkWrite of bs: E_SINK(w) when fewer bytes are accepted, else OK with v
(20_memory.md R96, D26). -/
def State.sendThenRespond (s : State) (bs : List Byte) (v : Value) : Result :=
  match s.sinkWrite bs with
  | some (w, s') => .next (if w < bs.length then s'.raise .eSink (value w) else s'.respond .ok v)
  | none => .fault .sinkNeverAnswers

/-! ## The bit writer and reader (46_bitstream.md) -/

/-- `write_bit` (R310): append a bit; when the buffer is full, send it, set WR_CUR to 0, and raise E_SINK if the sink
accepted less. -/
def State.writeBit (s : State) (b : Bool) : WriteRun :=
  let s₁ := { s.setBufBit s.wrCur b with wrCur := s.wrCur + 1 }
  if s₁.wrCur = s.bufBits then
    match s₁.sinkWrite (s₁.bufBytes s.params.blockBytes) with
    | some (w, s₂) =>
      let s₃ := { s₂ with wrCur := 0 }
      if w < s.params.blockBytes then .raised (s₃.raise .eSink (value w)) else .done s₃
    | none => .never
  else .done s₁

/-- `write_bit` for each bit in order; an error ends the command (R310). -/
def State.writeBits (s : State) (bs : List Bool) : WriteRun :=
  match bs with
  | [] => .done s
  | b :: rest =>
    match s.writeBit b with
    | .done s' => s'.writeBits rest
    | .raised s' => .raised s'
    | .never => .never

/-- A command that writes the bits of a code and answers its length (R317, R318). -/
def State.writeThenRespond (s : State) (c : BitCode) : Result :=
  match s.writeBits c.toList with
  | .done s' => .next (s'.respond .ok (value c.len))
  | .raised s' => .next s'
  | .never => .fault .sinkNeverAnswers

/-- The bit at RD_CUR, and RD_CUR moved on. -/
def State.nextBit (s : State) : BitRun := .bit (s.bufBit s.rdCur) { s with rdCur := s.rdCur + 1 }

/-- The buffer loaded with the bytes of a refill (R311): RD_END is 8 times the bytes loaded. -/
def State.load (s : State) (t : List Byte) : State :=
  { s with buf := putBytes s.buf 0 t, rdEnd := 8 * t.length, rdCur := 0 }

/-- `read_bit` (R311). -/
def State.readBit (s : State) : BitRun :=
  if s.rdCur = s.rdEnd then
    match s.sourceRead s.params.blockBytes with
    | some ([], s') => .exhausted s'
    | some (b :: t, s') => (s'.load (b :: t)).nextBit
    | none => .never
  else s.nextBit

/-- FLUSH's padding (R319): `count` free bits from bit i on. -/
def State.pad (s : State) (i count : Nat) : State :=
  match count with
  | 0 => s
  | count + 1 => State.pad { s.setBufBit i (Config.freeBit s.draws) with draws := s.draws + 1 } (i + 1) count

end Sys2Proof.Machine
end

