-- ==== Sys2Proof/Machine/Flags.lean ====
section
/-! DEFINITION. The block has no flag register (spec/10_state.md R32): the outcome of a command is its response code. This file
holds the numbers of the codes, the STATUS word, and the 0/1 answers of the test commands. -/

namespace Sys2Proof.Machine

/-- The number of a response code (60_exceptions.md R351). -/
def Code.num : Code → BitVec 8
  | .ok => 0x00
  | .full => 0x01
  | .empty => 0x02
  | .exhausted => 0x03
  | .halted => 0x04
  | .eIllegal => 0x10
  | .eOperand => 0x11
  | .ePrecond => 0x12
  | .eNoMem => 0x13
  | .eMagic => 0x20
  | .eDump => 0x21
  | .eTrunc => 0x22
  | .eDegen => 0x23
  | .eSink => 0x30
  | .eNoCode => 0x31

/-- A fatal error is a code 0x10 or above (60_exceptions.md R350). -/
def Code.isFatal (c : Code) : Bool := 0x10 ≤ c.num.toNat

/-- The STATUS register (10_state.md R34): CODE in bits 7:0, ERR in bit 8, 0 above. -/
def State.statusWord (s : State) : Value := s.code.num.setWidth 64 ||| ((BitVec.ofBool s.err).setWidth 64 <<< 8)

/-- A boolean answer as RESULT 0 or 1 (10_state.md R32). -/
def boolValue (b : Bool) : Value := if b then 1 else 0

end Sys2Proof.Machine
end

