-- ==== Sys2Proof/Machine/Operands.lean ====
section
/-! DEFINITION. The operand forms: register numbers and their values (spec/10_state.md R33), NODE_READ's selectors
(spec/44_tree.md R245), node and bit index operands, the ROOT operand, and the error halt's check, which every command but
RESET and REG_READ makes first (spec/30_encoding.md R136). -/

namespace Sys2Proof.Machine

/-- In the error halt the command is refused with (HALTED, 0) and changes nothing else (30_encoding.md R136,
60_exceptions.md R354). -/
def State.unlessHalted (s : State) (k : Result) : Result :=
  if s.err then .next (s.reply .halted 0) else k

/-- The register a number names (10_state.md R33); numbers above 0x10 name none. -/
def regOf? (r : BitVec 16) : Option Reg :=
  match r.toNat with
  | 0x00 => some .id
  | 0x01 => some .status
  | 0x02 => some .result
  | 0x03 => some .magic
  | 0x04 => some .hdrPerms
  | 0x05 => some .hdrTsize
  | 0x06 => some .hdrFsize
  | 0x07 => some .root
  | 0x08 => some .wrCur
  | 0x09 => some .rdCur
  | 0x0A => some .rdEnd
  | 0x0B => some .nodesUsed
  | 0x0C => some .nsCap
  | 0x0D => some .paramBlock
  | 0x0E => some .paramNodeCap
  | 0x0F => some .paramPqN
  | 0x10 => some .paramNsMax
  | _ => none

/-- `value(r)` (40_control.md R162, 10_state.md R33). -/
def State.regValue (s : State) (r : Reg) : Value :=
  match r with
  | .id => idConstant
  | .status => s.statusWord
  | .result => s.result
  | .magic => s.params.magic.setWidth 64
  | .hdrPerms => s.hdrPerms.setWidth 64
  | .hdrTsize => s.hdrTsize.setWidth 64
  | .hdrFsize => s.hdrFsize
  | .root => s.root.setWidth 64
  | .wrCur => value s.wrCur
  | .rdCur => value s.rdCur
  | .rdEnd => value s.rdEnd
  | .nodesUsed => value (nodeCap - s.freeSlots)
  | .nsCap => value s.nsCap
  | .paramBlock => value s.params.blockBytes
  | .paramNodeCap => value nodeCap
  | .paramPqN => value pqN
  | .paramNsMax => value nsMax

/-- The field a selector of NODE_READ names (44_tree.md R245); selectors above 5 name none. -/
def fieldOf? (f : BitVec 8) : Option NodeField :=
  match f.toNat with
  | 0 => some .sym
  | 1 => some .freq
  | 2 => some .left
  | 3 => some .right
  | 4 => some .isLeaf
  | 5 => some .hasParent
  | _ => none

/-- The value NODE_READ returns for a field (44_tree.md R245). -/
def Node.fieldValue (nd : Node) (f : NodeField) : Value :=
  match f with
  | .sym => nd.sym.setWidth 64
  | .freq => nd.freq
  | .left => nd.left.setWidth 64
  | .right => nd.right.setWidth 64
  | .isLeaf => boolValue nd.isLeaf
  | .hasParent => boolValue nd.hasParent

/-- A command with one bit index operand (46_bitstream.md R313 to R315): E_OPERAND outside the buffer. -/
def State.withBufIndex (s : State) (i : BitVec 16) (k : State) : State :=
  if s.bufBits ≤ i.toNat then s.raise .eOperand (i.setWidth 64) else k

/-- A command with one node operand (20_memory.md R82): E_OPERAND(n) unless valid(n). -/
def State.withNode (s : State) (n : NodeIx) (k : Result) : Result :=
  if s.valid n then k else .next (s.raise .eOperand (n.setWidth 64))

/-- A command on the tree ROOT names (10_state.md R37): E_OPERAND(ROOT) unless valid(ROOT). -/
def State.withRoot (s : State) (k : Result) : Result := s.withNode s.root k

/-- The tree a command walks; an arena that is no forest there stops the machine (10_state.md R40). -/
def State.withTree (s : State) (n : NodeIx) (k : NodeTree → Result) : Result :=
  match s.treeAt n with
  | some t => k t
  | none => .fault .arenaNotForest

end Sys2Proof.Machine
end

