-- ==== Sys2Proof/Machine/Arena.lean ====
section
/-! DEFINITION. Node arena commands (spec/44_tree.md, section 2). -/

namespace Sys2Proof.Machine

/-- NODE_LEAF (R243): the new node's index, or FULL. -/
def execNodeLeaf (x : Sym) (f : BitVec 64) (s : State) : Result :=
  s.unlessHalted <| .next <|
    if s.freeSlots = 0 then s.fail .full
    else
      let (n, s') := s.makeLeaf x f
      s'.respond .ok (n.setWidth 64)

/-- NODE_JOIN (R244): the checks in the rule's order, then the new node's index, or FULL. -/
def execNodeJoin (l r : NodeIx) (s : State) : Result :=
  s.unlessHalted <| s.withNode l <| s.withNode r <| .next <|
    if l = r then s.raise .eOperand (r.setWidth 64)
    else if (s.node l).hasParent then s.raise .eOperand (l.setWidth 64)
    else if (s.node r).hasParent then s.raise .eOperand (r.setWidth 64)
    else if s.freeSlots = 0 then s.fail .full
    else
      let (n, s') := s.join l r
      s'.respond .ok (n.setWidth 64)

/-- NODE_READ (R245): the selector is checked before the node. -/
def execNodeRead (f : BitVec 8) (n : NodeIx) (s : State) : Result :=
  s.unlessHalted <|
    match fieldOf? f with
    | none => .next (s.raise .eOperand (f.setWidth 64))
    | some fd => s.withNode n (.next (s.respond .ok ((s.node n).fieldValue fd)))

/-- RELEASE (R247): only a valid node without a parent; the number of nodes freed. -/
def execRelease (n : NodeIx) (s : State) : Result :=
  s.unlessHalted <| s.withNode n <|
    if (s.node n).hasParent then .next (s.raise .eOperand (n.setWidth 64))
    else s.withTree n fun t => .next ((s.freeTree t).respond .ok (value t.postorder.length))

end Sys2Proof.Machine
end

