-- ==== Sys2Proof/Machine/BitCodeUnit.lean ====
section
/-! DEFINITION. BitCode commands (spec/41_bitcode.md). -/

namespace Sys2Proof.Machine

/-- BC_CLEAR (R182): BITS stays, LEN becomes 0. -/
def execBcClear (s : State) : Result :=
  s.unlessHalted (.next ({ s with bc := { s.bc with len := 0 } }.respond .ok 0))

/-- BC_PUSH (R183): the new length, or FULL. -/
def execBcPush (bit : Bool) (s : State) : Result :=
  s.unlessHalted <| .next <|
    match s.bc.push bit with
    | some c => { s with bc := c }.respond .ok (value c.len)
    | none => s.fail .full

/-- BC_POP (R184): the popped bit, or EMPTY. -/
def execBcPop (s : State) : Result :=
  s.unlessHalted <| .next <|
    match s.bc.pop with
    | some (b, c) => { s with bc := c }.respond .ok (boolValue b)
    | none => s.fail .empty

/-- BC_SIZE (R185). -/
def execBcSize (s : State) : Result := s.unlessHalted (.next (s.respond .ok (value s.bc.len)))

/-- BC_ISEMPTY (R186). -/
def execBcIsEmpty (s : State) : Result := s.unlessHalted (.next (s.respond .ok (boolValue (s.bc.len == 0))))

/-- BC_ISFULL (R187): full at 256 bits. -/
def execBcIsFull (s : State) : Result := s.unlessHalted (.next (s.respond .ok (boolValue (s.bc.len == bcCap))))

/-- The character BC_RENDER writes for a bit: '0' = 0x30, '1' = 0x31 (R188). -/
def renderBit (b : Bool) : Byte := if b then 0x31 else 0x30

/-- BC_RENDER (R188): an empty code offers nothing to the sink. -/
def execBcRender (s : State) : Result :=
  s.unlessHalted (s.sendThenRespond (s.bc.toList.map renderBit) (value s.bc.len))

end Sys2Proof.Machine
end

