-- ==== Sys2Proof/Machine/Bitstream.lean ====
section
/-! DEFINITION. Bitstream commands (spec/46_bitstream.md). -/

namespace Sys2Proof.Machine

/-- BS_RESET (R312): the cursors, not the buffer. -/
def execBsReset (s : State) : Result :=
  s.unlessHalted (.next ({ s with wrCur := 0, rdCur := 0, rdEnd := 0 }.respond .ok 0))

/-- SETBIT (R313). -/
def execSetBit (k : BitVec 16) (s : State) : Result :=
  s.unlessHalted (.next (s.withBufIndex k ((s.setBufBit k.toNat true).respond .ok 0)))

/-- CLRBIT (R314). -/
def execClrBit (k : BitVec 16) (s : State) : Result :=
  s.unlessHalted (.next (s.withBufIndex k ((s.setBufBit k.toNat false).respond .ok 0)))

/-- GETBIT (R315): the bit as it stands. -/
def execGetBit (k : BitVec 16) (s : State) : Result :=
  s.unlessHalted (.next (s.withBufIndex k (s.respond .ok (boolValue (s.bufBit k.toNat)))))

/-- READBIT (R316): the bit, or EXHAUSTED. -/
def execReadBit (s : State) : Result :=
  s.unlessHalted <|
    match s.readBit with
    | .bit b s' => .next (s'.respond .ok (boolValue b))
    | .exhausted s' => .next (s'.fail .exhausted)
    | .never => .fault .sourceNeverAnswers

/-- WRITECODE (R317): the code table's code of the symbol; the number of bits written. -/
def execWriteCode (x : Sym) (s : State) : Result :=
  s.unlessHalted <|
    if !(s.ctAt x).valid then .next (s.raise .eNoCode (x.setWidth 64))
    else s.writeThenRespond (s.ctAt x).code

/-- WRITEBC (R318): the BitCode register; the number of bits written. -/
def execWriteBc (s : State) : Result := s.unlessHalted (s.writeThenRespond s.bc)

/-- FLUSH (R319): ceil(WR_CUR / 8) bytes, the last one padded with free bits, and WR_CUR back to 0. -/
def execFlush (s : State) : Result :=
  s.unlessHalted <|
    let n := (s.wrCur + 7) / 8
    let s₁ := s.pad s.wrCur (8 * n - s.wrCur)
    match s₁.sinkWrite (s₁.bufBytes n) with
    | none => .fault .sinkNeverAnswers
    | some (w, s₂) =>
      let s₃ := { s₂ with wrCur := 0 }
      .next (if w < n then s₃.raise .eSink (value w) else s₃.respond .ok (value n))

/-- `decode_symbol` (R320) from a node, with j bits used so far: 0 goes left, 1 goes right. -/
def State.decodeSymbol (s : State) (t : NodeTree) (j : Nat) : SymRun :=
  match t with
  | .leaf _ x => .symbol x s
  | .node _ l r =>
    match s.readBit with
    | .exhausted s' => .exhausted j s'
    | .never => .never
    | .bit false s' => s'.decodeSymbol l (j + 1)
    | .bit true s' => s'.decodeSymbol r (j + 1)

/-- DECSYM (R321): one symbol; E_DEGEN when the root is a leaf, E_TRUNC when the stream ends inside the symbol. -/
def execDecSym (s : State) : Result :=
  s.unlessHalted <| s.withRoot <|
    if (s.node s.root).isLeaf then .next (s.raise .eDegen (s.root.setWidth 64))
    else
      s.withTree s.root fun t =>
        match s.decodeSymbol t 0 with
        | .symbol x s' => .next (s'.respond .ok (x.setWidth 64))
        | .exhausted j s' => .next (s'.raise .eTrunc (value j))
        | .never => .fault .sourceNeverAnswers

/-- The loop of DECODE (R322) with `left` symbols to go and k done: each symbol goes to the sink as soon as it is decoded. -/
def State.decodeLoop (s : State) (t : NodeTree) (left k : Nat) : Result :=
  match left with
  | 0 => .next (s.respond .ok s.hdrFsize)
  | left + 1 =>
    match s.decodeSymbol t 0 with
    | .exhausted _ s' => .next (s'.raise .eTrunc (value k))
    | .never => .fault .sourceNeverAnswers
    | .symbol x s' =>
      match s'.sinkWrite [x] with
      | none => .fault .sinkNeverAnswers
      | some (w, s₂) => if w < 1 then .next (s₂.raise .eSink (value k)) else s₂.decodeLoop t left (k + 1)

/-- DECODE (R322): HDR_FSIZE symbols; ROOT is checked first, then a count of 0, then a leaf root. -/
def execDecodeAll (s : State) : Result :=
  s.unlessHalted <| s.withRoot <|
    if s.hdrFsize = 0 then .next (s.respond .ok 0)
    else if (s.node s.root).isLeaf then .next (s.raise .eDegen (s.root.setWidth 64))
    else s.withTree s.root fun t => s.decodeLoop t s.hdrFsize.toNat 0

end Sys2Proof.Machine
end

