-- ==== Sys2Proof/Machine/CodeTable.lean ====
section
/-! DEFINITION. Code table commands (spec/45_tree_codes.md, section 1). -/

namespace Sys2Proof.Machine

/-- `ct_invalidate()` (R280): every entry's VALID becomes 0. -/
def State.invalidateCt (s : State) : State :=
  { s with ct := ⟨⟨s.ct.toList.map (fun e => { e with valid := false })⟩, by simp⟩ }

/-- `bc_push` on the working code W, which is never full (R282). -/
def BitCode.pushed (w : BitCode) (b : Bool) : BitCode := (w.push b).getD w

/-- `walk` (R282) from a node whose path is the working code w: at a leaf the code is recorded for its symbol, 0 goes left,
1 goes right, left first. -/
def State.recordCodes (s : State) (w : BitCode) (t : NodeTree) : State :=
  match t with
  | .leaf _ x => s.setCt x ⟨true, w⟩
  | .node _ l r => (s.recordCodes (w.pushed false) l).recordCodes (w.pushed true) r

/-- The number of leaves. -/
def NodeTree.leafCount : NodeTree → Nat
  | .leaf _ _ => 1
  | .node _ l r => l.leafCount + r.leafCount

/-- CODETABLE (R283): the number of leaves visited. -/
def execCodeTable (s : State) : Result :=
  s.unlessHalted <| s.withRoot <| s.withTree s.root fun t =>
    .next ((s.invalidateCt.recordCodes BitCode.empty t).respond .ok (value t.leafCount))

/-- CT_LEN (R285): VALID in bit 16, LEN below. -/
def execCtLen (x : Sym) (s : State) : Result :=
  s.unlessHalted <| .next <| s.respond .ok <|
    if (s.ctAt x).valid then value (2 ^ 16 + (s.ctAt x).code.len) else 0

/-- CT_BIT (R286): the entry is checked before the index. -/
def execCtBit (x : Sym) (k : BitVec 16) (s : State) : Result :=
  s.unlessHalted <| .next <|
    if !(s.ctAt x).valid then s.raise .eNoCode (x.setWidth 64)
    else if (s.ctAt x).code.len ≤ k.toNat then s.raise .eOperand (k.setWidth 64)
    else s.respond .ok (boolValue ((s.ctAt x).code.bits.getLsbD k.toNat))

/-- CT_LOADBC (R287). -/
def execCtLoadBc (x : Sym) (s : State) : Result :=
  s.unlessHalted <| .next <|
    if !(s.ctAt x).valid then s.raise .eNoCode (x.setWidth 64)
    else { s with bc := (s.ctAt x).code }.respond .ok (value (s.ctAt x).code.len)

end Sys2Proof.Machine
end

