-- ==== Sys2Proof/Machine/Container.lean ====
section
/-! DEFINITION. Container header commands (spec/47_container.md). -/

namespace Sys2Proof.Machine

/-- The 16 bytes of the header: magic, permissions, tree_size, file_size, each little-endian (R340, 20_memory.md R90). -/
def State.headerBytes (s : State) : List Byte :=
  leBytes 4 s.params.magic.toNat ++ leBytes 2 s.hdrPerms.toNat ++ leBytes 2 s.hdrTsize.toNat ++ leBytes 8 s.hdrFsize.toNat

/-- HDR_WRITE (R341). -/
def execHdrWrite (s : State) : Result := s.unlessHalted (s.sendThenRespond s.headerBytes 16)

/-- HDR_READ (R342, R343): all 16 bytes are read, then the magic is checked, then the fields are loaded. -/
def execHdrRead (s : State) : Result :=
  s.unlessHalted <|
    match s.sourceRead 16 with
    | none => .fault .sourceNeverAnswers
    | some (t, s₁) =>
      .next <|
        if t.length < 16 then s₁.raise .eTrunc (value t.length)
        else
          let m := fromLe (t.take 4)
          if m ≠ s₁.params.magic.toNat then s₁.raise .eMagic (value m)
          else
            { s₁ with
              hdrPerms := BitVec.ofNat 16 (fromLe ((t.drop 4).take 2))
              hdrTsize := BitVec.ofNat 16 (fromLe ((t.drop 6).take 2))
              hdrFsize := BitVec.ofNat 64 (fromLe ((t.drop 8).take 8)) }.respond .ok 16

end Sys2Proof.Machine
end

