-- ==== Sys2Proof/Machine/Control.lean ====
section
/-! DEFINITION. Control commands (spec/40_control.md): NOP, RESET, REG_READ, REG_WRITE. -/

namespace Sys2Proof.Machine

/-- NOP (R160). -/
def execNop (s : State) : Result := s.unlessHalted (.next (s.respond .ok 0))

/-- RESET (R161): served in the error halt too. -/
def execReset (s : State) : Result := .next (s.resetBlock.respond .ok 0)

/-- REG_READ (R162): in the error halt it answers without storing, and refuses a number that names no register with HALTED. -/
def execRegRead (r : BitVec 16) (s : State) : Result :=
  .next <|
    match regOf? r with
    | some reg => if s.err then s.reply .ok (s.regValue reg) else s.respond .ok (s.regValue reg)
    | none => if s.err then s.reply .halted 0 else s.raise .eOperand (r.setWidth 64)

/-- REG_WRITE (R163): only HDR_PERMS, HDR_TSIZE, HDR_FSIZE and ROOT are writable, each with its legal values. -/
def execRegWrite (r : BitVec 16) (v : BitVec 64) (s : State) : Result :=
  s.unlessHalted <| .next <|
    match regOf? r with
    | some .hdrPerms =>
      if 0xFFFF < v.toNat then s.raise .eOperand v
      else { s with hdrPerms := v.setWidth 16 }.respond .ok 0
    | some .hdrTsize =>
      if 0xFFFF < v.toNat then s.raise .eOperand v
      else { s with hdrTsize := v.setWidth 16 }.respond .ok 0
    | some .hdrFsize => { s with hdrFsize := v }.respond .ok 0
    | some .root =>
      if v.toNat = 0xFFFF ∨ v.toNat < nodeCap then { s with root := v.setWidth 16 }.respond .ok 0
      else s.raise .eOperand v
    | _ => s.raise .eOperand (r.setWidth 64)

end Sys2Proof.Machine
end

