-- ==== Sys2Proof/Machine/Dump.lean ====
section
/-! DEFINITION. SERIALIZE and DESERIALIZE (spec/45_tree_codes.md, sections 2 and 3). -/

namespace Sys2Proof.Machine

/-- The dump's leaf marker 'L' (20_memory.md R92). -/
def markLeaf : Byte := 0x4C

/-- The dump's internal node marker 'I' (20_memory.md R92). -/
def markNode : Byte := 0x49

/-- `dump` (R288). -/
def NodeTree.dump : NodeTree → List Byte
  | .leaf _ x => [markLeaf, x]
  | .node _ l r => l.dump ++ r.dump ++ [markNode]

/-- SERIALIZE (R289): the dump's length, or E_SINK. -/
def execSerialize (s : State) : Result :=
  s.unlessHalted <| s.withRoot <| s.withTree s.root fun t =>
    s.sendThenRespond t.dump (value t.dump.length)

/-- `check_dump` (R290) from offset i with depth d and L leaves so far. -/
def checkDump (t : List Byte) (i d leaves : Nat) : DumpCheck :=
  match t with
  | [] => if d = 1 then .good leaves else .bad i
  | [m] =>
    if m = markLeaf then .bad i
    else if m = markNode then
      if d < 2 then .bad i
      else if d - 1 = 1 then .good leaves else .bad (i + 1)
    else .bad i
  | m :: x :: rest =>
    if m = markLeaf then checkDump rest (i + 2) (d + 1) (leaves + 1)
    else if m = markNode then
      if d < 2 then .bad i else checkDump (x :: rest) (i + 1) (d - 1) leaves
    else .bad i

/-- `ns_push` inside `rebuild`, where the stack is never full (R291). -/
def State.pushNode (s : State) (n : NodeIx) : State := (s.nsPush n).getD s

/-- `ns_pop` inside `rebuild`, where the stack is never empty (R291). -/
def State.popNode (s : State) : NodeIx × State := s.nsPop.getD (nullNode, s)

/-- An 'I' of `rebuild`: the first node popped is the right child, the second the left child (R291). -/
def State.joinTop (s : State) : State :=
  let (r, s₁) := s.popNode
  let (l, s₂) := s₁.popNode
  let (n, s₃) := s₂.join l r
  s₃.pushNode n

/-- An 'L' of `rebuild`: push a new leaf (R291). -/
def State.pushLeaf (s : State) (x : Sym) : State :=
  let (n, s') := s.makeLeaf x placeholderFreq
  s'.pushNode n

/-- The scan of `rebuild` over a dump that check_dump accepted (R291). -/
def State.scanDump (s : State) (t : List Byte) : State :=
  match t with
  | [] => s
  | [_] => s.joinTop
  | m :: x :: rest =>
    if m = markLeaf then (s.pushLeaf x).scanDump rest else s.joinTop.scanDump (x :: rest)

/-- `rebuild` (R291): the root's index, the stack left empty with the dump's length as its capacity. -/
def State.rebuild (s : State) (t : List Byte) : NodeIx × State :=
  (State.scanDump { s with nsCap := t.length, nsTop := 0 } t).popNode

/-- DESERIALIZE (R292): the leaf count, or the first of the rule's errors. -/
def execDeserialize (s : State) : Result :=
  s.unlessHalted <|
    let size := s.hdrTsize.toNat
    if dumpMax < size then .next (s.raise .eDump (value size))
    else
      match s.sourceRead size with
      | none => .fault .sourceNeverAnswers
      | some (t, s₁) =>
        .next <|
          if t.length < size then s₁.raise .eTrunc (value t.length)
          else
            match checkDump t 0 0 0 with
            | .bad i => s₁.raise .eDump (value i)
            | .good leaves =>
              if s₁.freeSlots < 2 * leaves - 1 then s₁.raise .eNoMem (value s₁.freeSlots)
              else
                let (root, s₂) := s₁.rebuild t
                { s₂ with root := root }.respond .ok (value leaves)

end Sys2Proof.Machine
end

