-- ==== Sys2Proof/Machine/Histogram.lean ====
section
/-! DEFINITION. Histogram commands (spec/44_tree.md, section 3). -/

namespace Sys2Proof.Machine

/-- HIST_CLEAR (R248). -/
def execHistClear (s : State) : Result :=
  s.unlessHalted (.next ({ s with hist := Vector.replicate 256 0 }.respond .ok 0))

/-- HIST_SET (R249). -/
def execHistSet (x : Sym) (c : BitVec 64) (s : State) : Result :=
  s.unlessHalted (.next ((s.setHist x c).respond .ok 0))

/-- HIST_ADD (R250): the sum wraps modulo 2^64; the new count. -/
def execHistAdd (x : Sym) (c : BitVec 64) (s : State) : Result :=
  let s' := s.setHist x (s.histAt x + c)
  s.unlessHalted (.next (s'.respond .ok (s'.histAt x)))

/-- HIST_GET (R251). -/
def execHistGet (x : Sym) (s : State) : Result := s.unlessHalted (.next (s.respond .ok (s.histAt x)))

end Sys2Proof.Machine
end

