-- ==== Sys2Proof/Machine/NodeStack.lean ====
section
/-! DEFINITION. Node stack commands (spec/43_nodestack.md). -/

namespace Sys2Proof.Machine

/-- NS_INIT (R222). -/
def execNsInit (c : BitVec 16) (s : State) : Result :=
  s.unlessHalted <| .next <|
    if nsMax < c.toNat then s.raise .eOperand (c.setWidth 64)
    else { s with nsCap := c.toNat, nsTop := 0 }.respond .ok 0

/-- NS_PUSH (R223): validity is checked before fullness; the new size, or FULL. -/
def execNsPush (n : NodeIx) (s : State) : Result :=
  s.unlessHalted <| s.withNode n <| .next <|
    match s.nsPush n with
    | some s' => s'.respond .ok (value s'.nsTop)
    | none => s.fail .full

/-- NS_POP (R224): the top entry, or EMPTY. -/
def execNsPop (s : State) : Result :=
  s.unlessHalted <| .next <|
    match s.nsPop with
    | some (n, s') => s'.respond .ok (n.setWidth 64)
    | none => s.fail .empty

/-- NS_SIZE (R225). -/
def execNsSize (s : State) : Result := s.unlessHalted (.next (s.respond .ok (value s.nsTop)))

end Sys2Proof.Machine
end

