-- ==== Sys2Proof/Machine/PriorityQueue.lean ====
section
/-! DEFINITION. Priority queue commands (spec/42_pqueue.md). -/

namespace Sys2Proof.Machine

/-- PQ_CLEAR (R204). -/
def execPqClear (s : State) : Result :=
  s.unlessHalted (.next ({ s with pqHead := 0, pqTail := 0 }.respond .ok 0))

/-- PQ_ENQ (R205): validity is checked before fullness; the new size, or FULL. -/
def execPqEnq (n : NodeIx) (s : State) : Result :=
  s.unlessHalted <| s.withNode n <| .next <|
    match s.pqEnqueue n with
    | some s' => s'.respond .ok (value s'.pqSize)
    | none => s.fail .full

/-- PQ_DEQ (R206): the head's node, or EMPTY. -/
def execPqDeq (s : State) : Result :=
  s.unlessHalted <| .next <|
    match s.pqDequeue with
    | some (n, s') => s'.respond .ok (n.setWidth 64)
    | none => s.fail .empty

/-- PQ_SIZE (R207). -/
def execPqSize (s : State) : Result := s.unlessHalted (.next (s.respond .ok (value s.pqSize)))

/-- PQ_ISEMPTY (R208). -/
def execPqIsEmpty (s : State) : Result := s.unlessHalted (.next (s.respond .ok (boolValue (s.pqHead == s.pqTail))))

/-- PQ_ISFULL (R209). -/
def execPqIsFull (s : State) : Result := s.unlessHalted (.next (s.respond .ok (boolValue (s.pqSize == pqN))))

end Sys2Proof.Machine
end

