-- ==== Sys2Proof/Machine/TreeBuild.lean ====
section
/-! DEFINITION. BUILD (spec/44_tree.md R252). -/

namespace Sys2Proof.Machine

/-- The symbols with a non-zero count, in ascending order (R252, D12). -/
def State.histSymbols (s : State) : List Sym :=
  ((List.range 256).map (BitVec.ofNat 8)).filter (fun x => s.histAt x != 0)

/-- `pq_enqueue` inside BUILD, where the queue is never full (R252). -/
def State.enqueueNode (s : State) (n : NodeIx) : State := (s.pqEnqueue n).getD s

/-- `pq_dequeue` inside BUILD, where the queue is never empty (R252). -/
def State.dequeueNode (s : State) : NodeIx × State := s.pqDequeue.getD (nullNode, s)

/-- One leaf of the first loop: `pq_enqueue(make_leaf(x, HIST[x]))`. -/
def State.enqueueLeaf (s : State) (x : Sym) : State :=
  let (n, s') := s.makeLeaf x (s.histAt x)
  s'.enqueueNode n

/-- One round of the second loop: the first node dequeued becomes the left child, the second the right child. -/
def State.mergeTwo (s : State) : State :=
  let (l, s₁) := s.dequeueNode
  let (r, s₂) := s₁.dequeueNode
  let (n, s₃) := s₂.join l r
  s₃.enqueueNode n

/-- The second loop, `while pq_size() > 1`: every round makes the queue one shorter, so 256 rounds are enough. -/
def State.mergeAll (s : State) (rounds : Nat) : State :=
  match rounds with
  | 0 => s
  | rounds + 1 => if 1 < s.pqSize then s.mergeTwo.mergeAll rounds else s

/-- BUILD (R252). -/
def execBuild (s : State) : Result :=
  s.unlessHalted <| .next <|
    let xs := s.histSymbols
    let u := xs.length
    if u < 2 then s.raise .ePrecond (value u)
    else if s.freeSlots < 2 * u - 1 then s.raise .eNoMem (value s.freeSlots)
    else
      let s₁ := { s with pqHead := 0, pqTail := 0 }
      let s₂ := (xs.foldl State.enqueueLeaf s₁).mergeAll pqN
      let (root, s₃) := s₂.dequeueNode
      { s₃ with root := root, hdrTsize := BitVec.ofNat 16 (3 * u - 1) }.respond .ok (value u)

end Sys2Proof.Machine
end

