-- ==== Sys2Proof/Machine/Dispatch.lean ====
section
/-! DEFINITION. One arm per command (spec/30_encoding.md R134). -/

namespace Sys2Proof.Machine

def exec (i : Instr) (s : State) : Host.Outcome State Fault Refusal :=
  match i with
  | .nop => Sys2Proof.Machine.execNop s
  | .reset => Sys2Proof.Machine.execReset s
  | .regRead r => Sys2Proof.Machine.execRegRead r s
  | .regWrite r v => Sys2Proof.Machine.execRegWrite r v s
  | .bcClear => Sys2Proof.Machine.execBcClear s
  | .bcPush bit => Sys2Proof.Machine.execBcPush bit s
  | .bcPop => Sys2Proof.Machine.execBcPop s
  | .bcSize => Sys2Proof.Machine.execBcSize s
  | .bcIsEmpty => Sys2Proof.Machine.execBcIsEmpty s
  | .bcIsFull => Sys2Proof.Machine.execBcIsFull s
  | .bcRender => Sys2Proof.Machine.execBcRender s
  | .pqClear => Sys2Proof.Machine.execPqClear s
  | .pqEnq n => Sys2Proof.Machine.execPqEnq n s
  | .pqDeq => Sys2Proof.Machine.execPqDeq s
  | .pqSize => Sys2Proof.Machine.execPqSize s
  | .pqIsEmpty => Sys2Proof.Machine.execPqIsEmpty s
  | .pqIsFull => Sys2Proof.Machine.execPqIsFull s
  | .nsInit c => Sys2Proof.Machine.execNsInit c s
  | .nsPush n => Sys2Proof.Machine.execNsPush n s
  | .nsPop => Sys2Proof.Machine.execNsPop s
  | .nsSize => Sys2Proof.Machine.execNsSize s
  | .nodeLeaf x f => Sys2Proof.Machine.execNodeLeaf x f s
  | .nodeJoin l r => Sys2Proof.Machine.execNodeJoin l r s
  | .nodeRead f n => Sys2Proof.Machine.execNodeRead f n s
  | .release n => Sys2Proof.Machine.execRelease n s
  | .histClear => Sys2Proof.Machine.execHistClear s
  | .histSet x c => Sys2Proof.Machine.execHistSet x c s
  | .histAdd x c => Sys2Proof.Machine.execHistAdd x c s
  | .histGet x => Sys2Proof.Machine.execHistGet x s
  | .build => Sys2Proof.Machine.execBuild s
  | .codeTable => Sys2Proof.Machine.execCodeTable s
  | .serialize => Sys2Proof.Machine.execSerialize s
  | .deserialize => Sys2Proof.Machine.execDeserialize s
  | .ctLen x => Sys2Proof.Machine.execCtLen x s
  | .ctBit x k => Sys2Proof.Machine.execCtBit x k s
  | .ctLoadBc x => Sys2Proof.Machine.execCtLoadBc x s
  | .bsReset => Sys2Proof.Machine.execBsReset s
  | .setBit k => Sys2Proof.Machine.execSetBit k s
  | .clrBit k => Sys2Proof.Machine.execClrBit k s
  | .getBit k => Sys2Proof.Machine.execGetBit k s
  | .readBit => Sys2Proof.Machine.execReadBit s
  | .writeCode x => Sys2Proof.Machine.execWriteCode x s
  | .writeBc => Sys2Proof.Machine.execWriteBc s
  | .flush => Sys2Proof.Machine.execFlush s
  | .decSym => Sys2Proof.Machine.execDecSym s
  | .decodeAll => Sys2Proof.Machine.execDecodeAll s
  | .hdrWrite => Sys2Proof.Machine.execHdrWrite s
  | .hdrRead => Sys2Proof.Machine.execHdrRead s

end Sys2Proof.Machine
end

