-- ==== Sys2Proof/Machine/Step.lean ====
section
/-! DEFINITION. One step of the engine (spec/00_scope.md R10): take the next event from the port and perform it. With nothing
on the port the block waits with all state held (spec/60_exceptions.md R367, spec/70_reset_and_hazards.md R382). -/

namespace Sys2Proof.Machine

/-- A command as it is taken from the port: decoded and performed, or refused by the encoding checks (30_encoding.md R136). -/
def State.perform (s : State) (c : Command) : Result :=
  match decode c with
  | .instr i => exec i s
  | .illegalOpcode => .next (s.refuseCommand c)
  | .reservedField => .next (s.refuseCommand c)

/-- One step: a command, a power-on reset (R380), or waiting. -/
def step (s : State) : Host.Outcome State Fault Refusal :=
  match s.port with
  | [] => .next s
  | .command c :: rest => State.perform { s with port := rest } c
  | .powerOn :: rest => .next (State.resetBlock { s with port := rest })

/-- s with the command of the bits w as the next one on the port. -/
def State.withFetchWord (s : State) (nbits w : Nat) : State :=
  { s with port := .command (tableCommand nbits w) :: s.port }

end Sys2Proof.Machine
end

