-- ==== Sys2Proof/Safety.lean ====
section
/-! DEFINITION. The words claims are stated in: the reset items (spec/70_reset_and_hazards.md R381), the views of the queue, the
stack, trees and bit sequences, the invariants a safe state meets, and the tables of what each command may write and answer. -/

namespace Sys2Proof.Machine

/-! ## Reset -/

/-- Every item of R381 that has a reset value has it. -/
def State.ResetItems (t : State) : Prop :=
  t.code = .ok ∧ t.err = false ∧ t.result = 0 ∧
  t.hdrPerms = 0 ∧ t.hdrTsize = 0 ∧ t.hdrFsize = 0 ∧ t.root = 0xFFFF ∧
  (∀ x, t.histAt x = 0) ∧ (∀ n, t.valid n = false) ∧
  t.pqHead = 0 ∧ t.pqTail = 0 ∧ t.nsTop = 0 ∧ t.nsCap = 0 ∧ t.bc.len = 0 ∧
  (∀ x, (t.ctAt x).valid = false) ∧ t.wrCur = 0 ∧ t.rdCur = 0 ∧ t.rdEnd = 0

/-- The parameters and the environment's side, but for the responses, are the same (R383). -/
def State.SameEnvironment (s t : State) : Prop :=
  t.params = s.params ∧ t.port = s.port ∧ t.source = s.source ∧ t.taken = s.taken ∧
  t.sinkPlan = s.sinkPlan ∧ t.sink = s.sink

/-! ## Views -/

/-- The contents of registers 0x00..0x10 in the order of R33's table. -/
def State.registerValues (s : State) : List Value :=
  [0x48554646, value (s.code.num.toNat + if s.err then 2 ^ 8 else 0), s.result, value s.params.magic.toNat,
   value s.hdrPerms.toNat, value s.hdrTsize.toNat, s.hdrFsize, value s.root.toNat,
   value s.wrCur, value s.rdCur, value s.rdEnd, value (s.arena.toList.countP (·.valid)), value s.nsCap,
   value s.params.blockBytes, 511, 256, 767]

/-- The queue's logical content, head first (10_state.md R41). -/
def State.pqList (s : State) : List PqSlot :=
  (List.range s.pqSize).map fun k => s.pqSlots[(s.pqHead.val + k) % 257]'(Nat.mod_lt _ (by decide))

/-- The stack's entries, bottom first (10_state.md R43). -/
def State.nsList (s : State) : List NodeIx := s.nse.toList.take s.nsTop

/-- The number of symbols with a non-zero count (44_tree.md R252). -/
def State.symbolCount (s : State) : Nat := (List.range 256).countP fun k => s.histAt (BitVec.ofNat 8 k) != 0

/-- n is the lowest free slot (44_tree.md R240). -/
def State.LowestFree (s : State) (n : NodeIx) : Prop :=
  n.toNat < nodeCap ∧ s.valid n = false ∧ ∀ m : NodeIx, m.toNat < n.toNat → s.valid m = true

/-- The symbols of a tree's leaves, left to right. -/
def NodeTree.symbols : NodeTree → List Sym
  | .leaf _ x => [x]
  | .node _ l r => l.symbols ++ r.symbols

/-- The number of edges on the longest path to a leaf. -/
def NodeTree.height : NodeTree → Nat
  | .leaf _ _ => 0
  | .node _ l r => max l.height r.height + 1

/-- The subtree a path of decisions leads to: 0 goes left, 1 goes right (00_scope.md R17, BitCode). -/
def NodeTree.sub : NodeTree → List Bool → Option NodeTree
  | t, [] => some t
  | .leaf _ _, _ :: _ => none
  | .node _ l _, false :: p => l.sub p
  | .node _ _ r, true :: p => r.sub p

/-- The path ends at a leaf that holds the symbol. -/
def NodeTree.Reaches (t : NodeTree) (p : List Bool) (x : Sym) : Prop := ∃ n, t.sub p = some (.leaf n x)

/-- The path ends at an internal node. -/
def NodeTree.StopsInside (t : NodeTree) (p : List Bool) : Prop := ∃ n l r, t.sub p = some (.node n l r)

/-- Of two leaves, the one at path p is visited before the one at path q: where the paths first differ, p goes left
(45_tree_codes.md R282). -/
def VisitedBefore (p q : List Bool) : Prop := List.Lex (fun a b => a = false ∧ b = true) p q

/-- The same shape with the same symbol at each leaf (45_tree_codes.md R293). -/
def NodeTree.sameShape : NodeTree → NodeTree → Bool
  | .leaf _ x, .leaf _ y => x == y
  | .node _ l r, .node _ l' r' => l.sameShape l' && r.sameShape r'
  | _, _ => false

/-- The list model's enqueue (42_pqueue.md R210): before the first element of a greater key, or at the end. -/
def insertByKey (q : List (Value × NodeTree)) (e : Value × NodeTree) : List (Value × NodeTree) :=
  q.takeWhile (fun x => x.1 ≤ e.1) ++ e :: q.dropWhile (fun x => x.1 ≤ e.1)

/-- The merging of 44_tree.md R252 on the list model: the first tree taken becomes the left child, the second the right child. -/
def mergeTrees : Nat → List (Value × NodeTree) → List (Value × NodeTree)
  | rounds + 1, a :: b :: q => mergeTrees rounds (insertByKey q (a.1 + b.1, .node nullNode a.2 b.2))
  | _, q => q

/-- The tree of the histogram, node indices left out: the leaves of the non-zero counts enqueued in ascending symbol order and
merged until one tree is left (44_tree.md R252). -/
def State.mergedTree (s : State) : Option NodeTree :=
  let xs := ((List.range 256).map (BitVec.ofNat 8)).filter fun x => s.histAt x ≠ 0
  let leaves : List (Value × NodeTree) := xs.map fun x => (s.histAt x, .leaf nullNode x)
  (mergeTrees 256 (leaves.foldl insertByKey [])).head?.map (·.2)

/-- The bits of bytes, least significant bit of each byte first (20_memory.md R84). -/
def bitsOf (bs : List Byte) : List Bool := bs.flatMap fun b => (List.range 8).map b.getLsbD

/-- The bits the writer has placed in the buffer and not yet sent (10_state.md R47). -/
def State.pending (s : State) : List Bool := (List.range s.wrCur).map s.bufBit

/-- All bits in the sink and pending, in order. -/
def State.written (s : State) : List Bool := bitsOf s.sink ++ s.pending

/-- The state after the reader has returned exactly the given bits; none where it returns another bit or no bit. -/
def State.readsBits (s : State) : List Bool → Option State
  | [] => some s
  | b :: rest =>
    match s.readBit with
    | .bit b' s' => if b' = b then s'.readsBits rest else none
    | .exhausted _ => none
    | .never => none

/-- The 16 bytes of a header, least significant byte of each field first (47_container.md R340, 20_memory.md R90). -/
def headerOf (magic : BitVec 32) (perms tsize : BitVec 16) (fsize : BitVec 64) : List Byte :=
  (List.range 4).map (fun j => magic.extractLsb' (8 * j) 8) ++ (List.range 2).map (fun j => perms.extractLsb' (8 * j) 8) ++
  (List.range 2).map (fun j => tsize.extractLsb' (8 * j) 8) ++ (List.range 8).map (fun j => fsize.extractLsb' (8 * j) 8)

/-- The outcome r of a command on s that offers bs to the sink in one SinkWrite and then answers v: E_SINK(w) where only w
bytes are accepted; with a sink that accepts every byte (the plan's end, log 4) all of bs is appended. -/
def State.Sends (s : State) (r : Result) (bs : List Byte) (v : Value) : Prop :=
  (s.sinkPlan = [] → r = .next ({ s with sink := s.sink ++ bs }.respond .ok v)) ∧
  (∀ w s', s.sinkWrite bs = some (w, s') → r = .next (if w < bs.length then s'.raise .eSink (value w) else s'.respond .ok v)) ∧
  (s.sinkWrite bs = none → r = .fault .sinkNeverAnswers)

/-! ## Invariants of a safe state -/

/-- Every count and cursor is in the range 10_state.md gives it (R33, R37, R43 to R47), and no buffer bit beyond the buffer
is set. -/
structure State.Bounds (s : State) : Prop where
  bcLen  : s.bc.len ≤ 256
  ctLen  : ∀ x, (s.ctAt x).code.len ≤ 256
  nsTop  : s.nsTop ≤ s.nsCap
  nsCap  : s.nsCap ≤ 767
  root   : s.root = 0xFFFF ∨ s.root.toNat < 511
  wrCur  : s.wrCur < s.bufBits
  rdCur  : s.rdCur ≤ s.rdEnd
  rdEnd  : s.rdEnd ≤ s.bufBits
  whole  : s.rdEnd % 8 = 0
  memory : Memory.wf s

/-- The queue's content is non-decreasing by key from head to tail (10_state.md R42). -/
def State.QueueOrdered (s : State) : Prop := s.pqList.Pairwise fun a b => a.key ≤ b.key

/-- STATUS.ERR is set exactly when STATUS.CODE is a fatal code, and HALTED is never stored (60_exceptions.md R350, R353). -/
def State.ErrIsFatal (s : State) : Prop := s.err = s.code.isFatal ∧ s.code ≠ .halted

/-- p is an internal node with the child c. -/
def State.IsChild (s : State) (c p : NodeIx) : Prop :=
  s.valid p = true ∧ (s.node p).isLeaf = false ∧ ((s.node p).left = c ∨ (s.node p).right = c)

/-- The live nodes form a forest of full binary trees (10_state.md R40): the two children of an internal node are live and
distinct and marked as having a parent, a node has at most one parent, and below every node there is a finite tree. -/
structure State.Forest (s : State) : Prop where
  children : ∀ p, s.valid p = true → (s.node p).isLeaf = false →
    s.valid (s.node p).left = true ∧ s.valid (s.node p).right = true ∧ (s.node p).left ≠ (s.node p).right
  owned    : ∀ c p, s.IsChild c p → (s.node c).hasParent = true
  oneOwner : ∀ c p q, s.IsChild c p → s.IsChild c q → p = q
  finite   : ∀ n, s.valid n = true → ∃ t, s.treeAt n = some t

/-- tr is a tree with root r that the command from s to t made: its nodes are distinct slots, free in s and live in t, every one but
the root has a parent (00_scope.md R17), and each internal node has the placeholder symbol and the sum of its children's frequencies
(44_tree.md R241, R242). -/
structure State.MadeTree (s t : State) (r : NodeIx) (tr : NodeTree) : Prop where
  tree     : t.treeAt r = some tr
  distinct : tr.postorder.Nodup
  live     : ∀ n ∈ tr.postorder, s.valid n = false ∧ t.valid n = true
  parent   : ∀ n ∈ tr.postorder, (t.node n).hasParent = decide (n ≠ r)
  joined   : ∀ n ∈ tr.postorder, (t.node n).isLeaf = false →
    (t.node n).sym = 0x24 ∧ (t.node n).freq = (t.node (t.node n).left).freq + (t.node (t.node n).right).freq

/-! ## What each command may write and answer -/

/-- The stores and channels a command can write. `draws` is the model's own count. -/
inductive Store where
  | header | root | hist | arena | queue | stack | bitCode | codeTable | buffer | cursors | source | sink | draws
deriving DecidableEq, Repr

/-- The store is the same in both states. -/
def State.sameStore (s t : State) : Store → Prop
  | .header => t.hdrPerms = s.hdrPerms ∧ t.hdrTsize = s.hdrTsize ∧ t.hdrFsize = s.hdrFsize
  | .root => t.root = s.root
  | .hist => t.hist = s.hist
  | .arena => t.arena = s.arena
  | .queue => t.pqSlots = s.pqSlots ∧ t.pqHead = s.pqHead ∧ t.pqTail = s.pqTail
  | .stack => t.nse = s.nse ∧ t.nsTop = s.nsTop ∧ t.nsCap = s.nsCap
  | .bitCode => t.bc = s.bc
  | .codeTable => t.ct = s.ct
  | .buffer => t.buf = s.buf
  | .cursors => t.wrCur = s.wrCur ∧ t.rdCur = s.rdCur ∧ t.rdEnd = s.rdEnd
  | .source => t.source = s.source ∧ t.taken = s.taken
  | .sink => t.sinkPlan = s.sinkPlan ∧ t.sink = s.sink
  | .draws => t.draws = s.draws

/-- The stores the spec lets a command write, STATUS and RESULT apart (10_state.md R36 to R47 and each command's rule). -/
def mayWrite : Instr → List Store
  | .nop | .regRead _ => []
  | .reset => [.header, .root, .hist, .arena, .queue, .stack, .bitCode, .codeTable, .buffer, .cursors, .draws]
  | .regWrite _ _ => [.header, .root]
  | .bcClear | .bcPush _ | .bcPop | .ctLoadBc _ => [.bitCode]
  | .bcSize | .bcIsEmpty | .bcIsFull => []
  | .pqClear | .pqEnq _ | .pqDeq => [.queue]
  | .pqSize | .pqIsEmpty | .pqIsFull => []
  | .nsInit _ | .nsPush _ | .nsPop => [.stack]
  | .nsSize => []
  | .nodeLeaf _ _ | .nodeJoin _ _ => [.arena]
  | .nodeRead _ _ => []
  | .release _ => [.arena, .root]
  | .histClear | .histSet _ _ | .histAdd _ _ => [.hist]
  | .histGet _ => []
  | .build => [.arena, .queue, .root, .header]
  | .codeTable => [.codeTable]
  | .bcRender | .serialize | .hdrWrite => [.sink]
  | .deserialize => [.source, .arena, .stack, .root]
  | .ctLen _ | .ctBit _ _ => []
  | .bsReset => [.cursors]
  | .setBit _ | .clrBit _ => [.buffer]
  | .getBit _ => []
  | .readBit | .decSym => [.source, .buffer, .cursors]
  | .writeCode _ | .writeBc => [.buffer, .cursors, .sink]
  | .flush => [.buffer, .cursors, .sink, .draws]
  | .decodeAll => [.source, .buffer, .cursors, .sink]
  | .hdrRead => [.source, .header]

/-- The codes a well-formed command can answer outside the error halt: the last column of R351. -/
def mayAnswer : Instr → List Code
  | .nop | .reset | .bcClear | .bcSize | .bcIsEmpty | .bcIsFull | .pqClear | .pqSize | .pqIsEmpty | .pqIsFull | .nsSize
  | .histClear | .histSet _ _ | .histAdd _ _ | .histGet _ | .ctLen _ | .bsReset => [.ok]
  | .regRead _ | .regWrite _ _ | .nsInit _ | .nodeRead _ _ | .release _ | .codeTable | .setBit _ | .clrBit _ | .getBit _ =>
    [.ok, .eOperand]
  | .bcPush _ | .nodeLeaf _ _ => [.ok, .full]
  | .bcPop | .pqDeq | .nsPop => [.ok, .empty]
  | .pqEnq _ | .nsPush _ | .nodeJoin _ _ => [.ok, .full, .eOperand]
  | .bcRender | .writeBc | .flush | .hdrWrite => [.ok, .eSink]
  | .build => [.ok, .ePrecond, .eNoMem]
  | .serialize => [.ok, .eOperand, .eSink]
  | .deserialize => [.ok, .eNoMem, .eDump, .eTrunc]
  | .ctBit _ _ => [.ok, .eOperand, .eNoCode]
  | .ctLoadBc _ => [.ok, .eNoCode]
  | .readBit => [.ok, .exhausted]
  | .writeCode _ => [.ok, .eSink, .eNoCode]
  | .decSym => [.ok, .eOperand, .eTrunc, .eDegen]
  | .decodeAll => [.ok, .eOperand, .eTrunc, .eDegen, .eSink]
  | .hdrRead => [.ok, .eMagic, .eTrunc]

/-- The 208 opcode values that no command has: the ranges R137 lists. -/
def undefinedOpcode (n : Nat) : Bool :=
  [(0x04, 0x0F), (0x17, 0x1F), (0x26, 0x2F), (0x34, 0x3F), (0x44, 0x4F), (0x54, 0x5F), (0x67, 0x6F), (0x7A, 0x7F),
   (0x82, 0xFF)].any fun r => decide (r.1 ≤ n ∧ n ≤ r.2)

end Sys2Proof.Machine
end

