-- ==== Sys2Proof/Certificates/Slice0/Obligations.lean ====
section
/-! DEFINITION. The statements for the provers, each from the numbered rules of spec/ its docstring names. The words they use
stand in Sys2Proof/Safety.lean. A statement with `s.err = false` holds outside the error halt, whose own statement is
ErrorHaltServesOnlyResetAndRegRead. -/

open Sys2Proof Sys2Proof.Machine

/-! ## Encoding and dispatch -/

/-- Words written out from the fields of R131 and the map of R134, one of each unit, read as the commands they stand for. -/
def Obligations.WordsOfEveryUnitDecode : Prop :=
  decode ⟨0x00060003, 4⟩ = .instr (.regWrite 0x06 4) ∧
  decode ⟨0x00000111, 0⟩ = .instr (.bcPush true) ∧
  decode ⟨0x00050021, 0⟩ = .instr (.pqEnq 5) ∧
  decode ⟨0x00050030, 0⟩ = .instr (.nsInit 5) ∧
  decode ⟨0x00010041, 2⟩ = .instr (.nodeJoin 1 2) ∧
  decode ⟨0x00006151, 3⟩ = .instr (.histSet 0x61 3) ∧
  decode ⟨0x00026265, 0⟩ = .instr (.ctBit 0x62 2) ∧
  decode ⟨0x00030071, 0⟩ = .instr (.setBit 3) ∧
  decode ⟨0x00000081, 0⟩ = .instr .hdrRead

/-- R131 to R134: the command of an instruction decodes to that instruction, for every operand value. -/
def Obligations.DecodeOfEncodeIsTheInstruction : Prop := ∀ i : Instr, decode (encode i) = .instr i

/-- R132, R138: a command that decodes is the command of what it decodes to, so no bit of CMD or D is ignored. -/
def Obligations.EncodeOfDecodeIsTheCommand : Prop := ∀ c i, decode c = .instr i → encode i = c

/-- R132, R134, R136 to R138: the decoder accepts exactly the commands that fit a row of the opcode table with every reserved
field zero. -/
def Obligations.DecoderAcceptsExactlyTheOpcodeTable : Prop :=
  ∀ c : Command, c.wellFormed = true ↔ ∃ i, decode c = .instr i

/-- R137: each of the 208 undefined opcodes raises E_ILLEGAL with the command word and changes nothing else. -/
def Obligations.UndefinedOpcodesRaiseIllegal : Prop :=
  (List.range 256).countP undefinedOpcode = 208 ∧
  ∀ (s : State) (c : Command) (rest : List HostEvent),
    s.port = .command c :: rest → s.err = false → undefinedOpcode c.op.toNat = true →
    step s = .next { s with port := rest, code := .eIllegal, err := true, result := c.cmd.setWidth 64,
                            resps := s.resps ++ [⟨.eIllegal, c.cmd.setWidth 64⟩] }

/-- R138: a non-zero reserved field makes the command illegal: outside the error halt, a command that fits no row of the table
raises E_ILLEGAL with the command word and changes nothing else. -/
def Obligations.ReservedFieldsRaiseIllegal : Prop :=
  ∀ (s : State) (c : Command) (rest : List HostEvent),
    s.port = .command c :: rest → s.err = false → c.wellFormed = false →
    step s = .next { s with port := rest, code := .eIllegal, err := true, result := c.cmd.setWidth 64,
                            resps := s.resps ++ [⟨.eIllegal, c.cmd.setWidth 64⟩] }

/-- R10: a step takes the next command from the port and runs the instruction it decodes to; the port is the only thing the
step adds around exec (log 1). -/
def Obligations.StepRunsTheDecodedCommand : Prop :=
  ∀ (s : State) (c : Command) (rest : List HostEvent) (i : Instr),
    s.port = .command c :: rest → decode c = .instr i → step s = exec i { s with port := rest }

/-- R367, R380 to R383: with nothing on the port the block waits with all state held; a power-on reset leaves every item at its
reset value and touches neither channel. The port and its events are the model's choice (log 1), and so is the clause that a
power-on reset returns no response (log 14, DEDUCED). -/
def Obligations.StepWaitsOrPowersOn : Prop :=
  (∀ s : State, s.port = [] → step s = .next s) ∧
  ∀ (s : State) (rest : List HostEvent), s.port = .powerOn :: rest →
    ∃ t, step s = .next t ∧ t.ResetItems ∧ State.SameEnvironment { s with port := rest } t ∧ t.resps = s.resps

/-- R161, R381, R383: RESET, in the error halt too, answers (OK, 0) with every item at its reset value; the parameters and the
channels stay. -/
def Obligations.ResetRestoresEveryItem : Prop :=
  ∀ s : State, ∃ t, exec .reset s = .next t ∧ t.ResetItems ∧ s.SameEnvironment t ∧ t.resps = s.resps ++ [⟨.ok, 0⟩]

/-- R381: the values the spec gives for reset, in the state after power-on. -/
def Obligations.ResetStateHasTheResetValues : Prop := State.reset.ResetItems

/-! ## Responses, errors and the error halt -/

/-- R352, R353: what respond and raise store and return, and that they change nothing else. -/
def Obligations.RespondAndRaiseStoreTheirCode : Prop :=
  ∀ (s : State) (c : Code) (v : Value),
    s.respond c v = { s with code := c, result := v, resps := s.resps ++ [⟨c, v⟩] } ∧
    s.raise c v = { s with code := c, err := true, result := v, resps := s.resps ++ [⟨c, v⟩] }

/-- R354: in the error halt the well-formed RESET resets; a REG_READ with A = 0 and D = 0 answers the register, or HALTED,
without storing; every other command, well-formed or not, answers (HALTED, 0) and changes nothing. -/
def Obligations.ErrorHaltServesOnlyResetAndRegRead : Prop :=
  ∀ (s : State) (c : Command) (rest : List HostEvent),
    s.port = .command c :: rest → s.err = true →
    step s = .next (
      if c = ⟨0x00000001, 0⟩ then (State.resetBlock { s with port := rest }).respond .ok 0
      else if c.cmd.toNat % 2 ^ 16 = 0x0002 ∧ c.d = 0 then
        match s.registerValues[c.cmd.toNat / 2 ^ 16]? with
        | some v => { s with port := rest, resps := s.resps ++ [⟨.ok, v⟩] }
        | none => { s with port := rest, resps := s.resps ++ [⟨.halted, 0⟩] }
      else { s with port := rest, resps := s.resps ++ [⟨.halted, 0⟩] })

/-- R355: the only way out of the error halt is the RESET command or a power-on reset. -/
def Obligations.OnlyResetLeavesTheErrorHalt : Prop :=
  ∀ s t : State, step s = .next t → s.err = true → t.err = false →
    ∃ rest, s.port = .powerOn :: rest ∨ s.port = .command ⟨0x00000001, 0⟩ :: rest

/-- R34, R350, R353, from any state that meets it: ERR is set exactly while CODE is a fatal code, and HALTED is never
stored. -/
def Obligations.StepKeepsErrEqualToFatalCode : Prop :=
  ∀ s t : State, s.ErrIsFatal → step s = .next t → t.ErrIsFatal

/-- R350, R357: a non-fatal failure changes no state except STATUS and RESULT. Only EXHAUSTED has asked the source, whose
zero-byte transfer is used up (the source's script is the model's, log 3). -/
def Obligations.NonFatalFailureChangesNothing : Prop :=
  ∀ (i : Instr) (s t : State), s.err = false → exec i s = .next t →
    t.code = .full ∨ t.code = .empty ∨ t.code = .exhausted →
    t = { s with code := t.code, result := 0, resps := s.resps ++ [⟨t.code, 0⟩], source := t.source } ∧
    (t.code ≠ .exhausted → t.source = s.source)

/-- R10, R130: a command gets exactly one response; outside the error halt it is what STATUS.CODE and RESULT then hold (R352,
R353). -/
def Obligations.EveryCommandAnswersOnce : Prop :=
  ∀ (s t : State) (c : Command) (rest : List HostEvent),
    s.port = .command c :: rest → step s = .next t →
    t.port = rest ∧ ∃ r, t.resps = s.resps ++ [r] ∧ (s.err = false → r = ⟨t.code, t.result⟩)

/-- R351: the numbers of the 15 codes; outside the error halt, each command answers only the codes the table's last column
gives it. -/
def Obligations.CommandsAnswerOnlyTheirCodes : Prop :=
  [Code.ok, .full, .empty, .exhausted, .halted, .eIllegal, .eOperand, .ePrecond, .eNoMem, .eMagic, .eDump, .eTrunc, .eDegen,
    .eSink, .eNoCode].map Code.num =
    [0x00, 0x01, 0x02, 0x03, 0x04, 0x10, 0x11, 0x12, 0x13, 0x20, 0x21, 0x22, 0x23, 0x30, 0x31] ∧
  ∀ (i : Instr) (s t : State), s.err = false → exec i s = .next t → t.code ∈ mayAnswer i

/-! ## Whole-machine rules -/

/-- R36 to R47 and R99, for all 48 commands: a command leaves every store it may not write as it was, and never the
instance's parameters or the host's port. -/
def Obligations.EveryCommandKeepsItsFrame : Prop :=
  ∀ (i : Instr) (s t : State), exec i s = .next t →
    t.params = s.params ∧ t.port = s.port ∧ ∀ st : Store, st ∉ mayWrite i → s.sameStore t st

/-- R98, R99, R383: what the sink has accepted and the host has received stays, and the count of bytes taken never falls. -/
def Obligations.ChannelsOnlyMoveForward : Prop :=
  ∀ s t : State, step s = .next t →
    s.sink <+: t.sink ∧ s.resps <+: t.resps ∧ s.taken ≤ t.taken ∧ t.params = s.params

/-- R33, R37, R43 to R47: every step keeps every count, cursor and index in its range and the buffer's canonical form. -/
def Obligations.StepKeepsBounds : Prop := ∀ s t : State, s.Bounds → step s = .next t → t.Bounds

/-- R42: every step keeps the queue non-decreasing by key. -/
def Obligations.StepKeepsTheQueueOrdered : Prop :=
  ∀ s t : State, s.QueueOrdered → step s = .next t → t.QueueOrdered

/-- R40: every step keeps the live nodes a forest of full binary trees. -/
def Obligations.StepKeepsTheForest : Prop := ∀ s t : State, s.Forest → step s = .next t → t.Forest

/-- R40, R394, I9: in a forest a step stops only where a channel never answers (log 5, log 11). -/
def Obligations.ForestStepStopsOnlyOnAChannel : Prop :=
  ∀ s : State, s.Forest →
    (∃ t, step s = .next t) ∨ step s = .fault .sourceNeverAnswers ∨ step s = .fault .sinkNeverAnswers

/-- R40, R42, R350, R381: the four invariants (ErrIsFatal, Bounds, QueueOrdered, Forest) hold in the state after power-on. -/
def Obligations.ResetMeetsEveryInvariant : Prop :=
  State.reset.ErrIsFatal ∧ State.reset.Bounds ∧ State.reset.QueueOrdered ∧ State.reset.Forest

/-! ## Registers and the commands that answer a value -/

/-- R162 with R33: REG_READ answers the register's content before the command; a number above 0x10 raises E_OPERAND. In the
error halt nothing is stored and such a number answers HALTED. -/
def Obligations.RegReadAnswersTheRegister : Prop :=
  ∀ (s : State) (r : BitVec 16), exec (.regRead r) s = .next (
    match s.registerValues[r.toNat]? with
    | some v => if s.err then { s with resps := s.resps ++ [⟨.ok, v⟩] } else s.respond .ok v
    | none => if s.err then { s with resps := s.resps ++ [⟨.halted, 0⟩] } else s.raise .eOperand (r.setWidth 64))

/-- R163: only registers 0x04 to 0x07 are writable, each with its legal values; nothing else changes. -/
def Obligations.RegWriteStoresLegalValues : Prop :=
  ∀ (s : State) (r : BitVec 16) (v : Value), s.err = false → exec (.regWrite r v) s = .next (
    if r.toNat < 0x04 ∨ 0x07 < r.toNat then s.raise .eOperand (value r.toNat)
    else if (r = 0x04 ∨ r = 0x05) ∧ 0xFFFF < v.toNat then s.raise .eOperand v
    else if r = 0x07 ∧ ¬(v = 0xFFFF ∨ v.toNat < 511) then s.raise .eOperand v
    else
      { s with hdrPerms := if r = 0x04 then v.setWidth 16 else s.hdrPerms
               hdrTsize := if r = 0x05 then v.setWidth 16 else s.hdrTsize
               hdrFsize := if r = 0x06 then v else s.hdrFsize
               root     := if r = 0x07 then v.setWidth 16 else s.root }.respond .ok 0)

/-- R160, R185 to R187, R207 to R209 (with R200), R225, R251, R285: these answer OK with their value and change nothing
else. -/
def Obligations.AnsweringCommandsAnswerTheirValue : Prop :=
  ∀ s : State, s.err = false →
    let size := (s.pqTail.val + 257 - s.pqHead.val) % 257
    exec .nop s = .next (s.respond .ok 0) ∧
    exec .bcSize s = .next (s.respond .ok (value s.bc.len)) ∧
    exec .bcIsEmpty s = .next (s.respond .ok (if s.bc.len = 0 then 1 else 0)) ∧
    exec .bcIsFull s = .next (s.respond .ok (if s.bc.len = 256 then 1 else 0)) ∧
    exec .pqSize s = .next (s.respond .ok (value size)) ∧
    exec .pqIsEmpty s = .next (s.respond .ok (if s.pqHead = s.pqTail then 1 else 0)) ∧
    exec .pqIsFull s = .next (s.respond .ok (if size = 256 then 1 else 0)) ∧
    exec .nsSize s = .next (s.respond .ok (value s.nsTop)) ∧
    ∀ x : Sym,
      exec (.histGet x) s = .next (s.respond .ok (s.histAt x)) ∧
      exec (.ctLen x) s = .next (s.respond .ok
        (value (if (s.ctAt x).valid then 2 ^ 16 + (s.ctAt x).code.len else 0)))

/-- R182, R204, R248, R312: the clearing commands clear exactly their counters or entries: BC_CLEAR keeps BITS, PQ_CLEAR the
slots and nodes, BS_RESET the buffer. -/
def Obligations.ClearingCommandsClear : Prop :=
  ∀ s : State, s.err = false →
    exec .bcClear s = .next ({ s with bc := ⟨s.bc.bits, 0⟩ }.respond .ok 0) ∧
    exec .pqClear s = .next ({ s with pqHead := 0, pqTail := 0 }.respond .ok 0) ∧
    exec .bsReset s = .next ({ s with wrCur := 0, rdCur := 0, rdEnd := 0 }.respond .ok 0) ∧
    ∃ h, exec .histClear s = .next ({ s with hist := h }.respond .ok 0) ∧ ∀ x, ({ s with hist := h } : State).histAt x = 0

/-! ## BitCode, queue and stack -/

/-- R180, R183: BC_PUSH appends its bit and answers the new length; at 256 bits it answers FULL and changes nothing. -/
def Obligations.BcPushAppendsOrIsFull : Prop :=
  ∀ (s : State) (b : Bool), s.err = false →
    (s.bc.len = 256 → exec (.bcPush b) s = .next (s.respond .full 0)) ∧
    (s.bc.len < 256 → ∃ c : BitCode,
      exec (.bcPush b) s = .next ({ s with bc := c }.respond .ok (value (s.bc.len + 1))) ∧
      c.len = s.bc.len + 1 ∧ c.toList = s.bc.toList ++ [b])

/-- R181, R184: BC_POP removes the last bit and answers it, BITS unchanged; on an empty code it answers EMPTY and changes
nothing. -/
def Obligations.BcPopRemovesOrIsEmpty : Prop :=
  ∀ s : State, s.err = false →
    (s.bc.len = 0 → exec .bcPop s = .next (s.respond .empty 0)) ∧
    (0 < s.bc.len → ∃ b : Bool,
      exec .bcPop s = .next ({ s with bc := ⟨s.bc.bits, s.bc.len - 1⟩ }.respond .ok (if b then 1 else 0)) ∧
      s.bc.toList = (⟨s.bc.bits, s.bc.len - 1⟩ : BitCode).toList ++ [b])

/-- R201, R205, and R210 for the enqueue: PQ_ENQ inserts the node with its frequency before the first entry of a greater key, as the list
model says; an invalid node raises E_OPERAND before fullness is looked at, and a full queue answers FULL. -/
def Obligations.PqEnqInsertsAsTheListModel : Prop :=
  ∀ (s : State) (n : NodeIx), s.err = false →
    (s.valid n = false → exec (.pqEnq n) s = .next (s.raise .eOperand (n.setWidth 64))) ∧
    (s.valid n = true → s.pqSize = 256 → exec (.pqEnq n) s = .next (s.respond .full 0)) ∧
    (s.valid n = true → s.pqSize < 256 → s.QueueOrdered → ∃ v,
      let t := { s with pqSlots := v, pqTail := s.pqTail + 1 }
      let k := (s.node n).freq
      exec (.pqEnq n) s = .next (t.respond .ok (value (s.pqSize + 1))) ∧
      t.pqList = s.pqList.takeWhile (fun e => e.key ≤ k) ++ ⟨n, k⟩ :: s.pqList.dropWhile (fun e => e.key ≤ k))

/-- R202, R206, R210: PQ_DEQ removes the head of the logical content and answers its node; an empty queue answers EMPTY. -/
def Obligations.PqDeqRemovesTheHead : Prop :=
  ∀ s : State, s.err = false →
    (s.pqList = [] → exec .pqDeq s = .next (s.respond .empty 0)) ∧
    (∀ e rest, s.pqList = e :: rest →
      exec .pqDeq s = .next ({ s with pqHead := s.pqHead + 1 }.respond .ok (e.node.setWidth 64)) ∧
      ({ s with pqHead := s.pqHead + 1 } : State).pqList = rest)

/-- R203: after enqueues that respect capacity the queue is in non-decreasing key order, and among equal keys stands first
what went in first. -/
def Obligations.QueueIsFifoAmongEqualKeys : Prop :=
  ∀ (s : State) (ns : List NodeIx), s.QueueOrdered → s.pqSize + ns.length ≤ 256 →
    (ns.foldl State.enqueueNode s).QueueOrdered ∧
    ∀ k, (ns.foldl State.enqueueNode s).pqList.filter (fun e => e.key = k) =
      s.pqList.filter (fun e => e.key = k) ++
      (ns.map fun n => (⟨n, (s.node n).freq⟩ : PqSlot)).filter (fun e => e.key = k)

/-- R220 to R224: NS_INIT sets the capacity and empties the stack; NS_PUSH and NS_POP work on the top, with E_OPERAND, FULL and
EMPTY where the rules say. -/
def Obligations.NodeStackIsABoundedStack : Prop :=
  ∀ s : State, s.err = false →
    (∀ c, exec (.nsInit c) s = .next (
      if 767 < c.toNat then s.raise .eOperand (value c.toNat) else { s with nsCap := c.toNat, nsTop := 0 }.respond .ok 0)) ∧
    (∀ n, s.valid n = false → exec (.nsPush n) s = .next (s.raise .eOperand (n.setWidth 64))) ∧
    (∀ n, s.valid n = true → s.nsTop = s.nsCap → exec (.nsPush n) s = .next (s.respond .full 0)) ∧
    (∀ n, s.valid n = true → s.nsTop < s.nsCap → s.nsCap ≤ 767 → ∃ v,
      let t := { s with nse := v, nsTop := s.nsTop + 1 }
      exec (.nsPush n) s = .next (t.respond .ok (value (s.nsTop + 1))) ∧ t.nsList = s.nsList ++ [n]) ∧
    (s.nsTop = 0 → exec .nsPop s = .next (s.respond .empty 0)) ∧
    (0 < s.nsTop → s.nsTop ≤ 767 → ∃ n,
      let t := { s with nsTop := s.nsTop - 1 }
      exec .nsPop s = .next (t.respond .ok (n.setWidth 64)) ∧ s.nsList = t.nsList ++ [n])

/-! ## Node arena and histogram -/

/-- R240, R241, R243: NODE_LEAF fills the lowest free slot with a leaf and answers its index, every other slot unchanged; a full
arena answers FULL. -/
def Obligations.NodeLeafFillsTheLowestFreeSlot : Prop :=
  ∀ (s : State) (x : Sym) (f : Value), s.err = false →
    (s.freeSlots = 0 → exec (.nodeLeaf x f) s = .next (s.respond .full 0)) ∧
    (0 < s.freeSlots → ∃ n a, s.LowestFree n ∧
      let t := { s with arena := a }
      exec (.nodeLeaf x f) s = .next (t.respond .ok (value n.toNat)) ∧
      t.slot? n = some ⟨true, x, f, 0xFFFF, 0xFFFF, false⟩ ∧ ∀ m, m ≠ n → t.slot? m = s.slot? m)

/-- R240, R242, R244: NODE_JOIN of two distinct parentless nodes makes their parent in the lowest free slot: placeholder symbol,
frequency the sum modulo 2^64, the children in order and marked; every other slot unchanged. -/
def Obligations.NodeJoinMakesTheParent : Prop :=
  ∀ (s : State) (l r : NodeIx) (nl nr : Node), s.err = false →
    s.slot? l = some nl → s.slot? r = some nr → nl.valid = true → nr.valid = true → l ≠ r →
    nl.hasParent = false → nr.hasParent = false → 0 < s.freeSlots →
    ∃ n a, s.LowestFree n ∧
      let t := { s with arena := a }
      exec (.nodeJoin l r) s = .next (t.respond .ok (value n.toNat)) ∧
      t.slot? n = some ⟨true, 0x24, value (nl.freq.toNat + nr.freq.toNat), l, r, false⟩ ∧
      t.slot? l = some { nl with hasParent := true } ∧ t.slot? r = some { nr with hasParent := true } ∧
      ∀ m, m ≠ n → m ≠ l → m ≠ r → t.slot? m = s.slot? m

/-- R244, R358: NODE_JOIN's refusals in their order: left not valid, right not valid, equal, left owned, right owned (E_OPERAND),
then a full arena (FULL). -/
def Obligations.NodeJoinChecksInOrder : Prop :=
  ∀ (s : State) (l r : NodeIx), s.err = false →
    let bad (v : NodeIx) := exec (.nodeJoin l r) s = .next (s.raise .eOperand (value v.toNat))
    (s.valid l = false → bad l) ∧
    (s.valid l = true → s.valid r = false → bad r) ∧
    (s.valid l = true → l = r → bad r) ∧
    (s.valid l = true → s.valid r = true → l ≠ r → (s.node l).hasParent = true → bad l) ∧
    (s.valid l = true → s.valid r = true → l ≠ r → (s.node l).hasParent = false → (s.node r).hasParent = true → bad r) ∧
    (s.valid l = true → s.valid r = true → l ≠ r → (s.node l).hasParent = false → (s.node r).hasParent = false →
      s.freeSlots = 0 → exec (.nodeJoin l r) s = .next (s.respond .full 0))

/-- R245: NODE_READ answers the selected field; a selector above 5 is refused first, then a node that is not valid. -/
def Obligations.NodeReadAnswersTheField : Prop :=
  ∀ (s : State) (f : BitVec 8) (n : NodeIx), s.err = false →
    exec (.nodeRead f n) s = .next (
      if 5 < f.toNat then s.raise .eOperand (value f.toNat)
      else if s.valid n = false then s.raise .eOperand (value n.toNat)
      else s.respond .ok (
        if f = 0 then value (s.node n).sym.toNat
        else if f = 1 then (s.node n).freq
        else if f = 2 then value (s.node n).left.toNat
        else if f = 3 then value (s.node n).right.toNat
        else if f = 4 then (if (s.node n).left = 0xFFFF ∧ (s.node n).right = 0xFFFF then 1 else 0)
        else if (s.node n).hasParent then 1 else 0))

/-- R246, R247: RELEASE of a parentless valid node frees exactly the nodes of its tree, clears ROOT if it named one of them, and
answers their number; a node that is not valid or has a parent raises E_OPERAND. -/
def Obligations.ReleaseFreesTheWholeTree : Prop :=
  ∀ (s : State) (n : NodeIx), s.err = false →
    (s.valid n = false → exec (.release n) s = .next (s.raise .eOperand (value n.toNat))) ∧
    (s.valid n = true → (s.node n).hasParent = true → exec (.release n) s = .next (s.raise .eOperand (value n.toNat))) ∧
    (∀ tr, s.valid n = true → (s.node n).hasParent = false → s.treeAt n = some tr → ∃ a,
      let t := { s with arena := a, root := if s.root ∈ tr.postorder then 0xFFFF else s.root }
      exec (.release n) s = .next (t.respond .ok (value (2 * tr.leafCount - 1))) ∧
      (∀ m ∈ tr.postorder, t.valid m = false) ∧ ∀ m, m ∉ tr.postorder → t.slot? m = s.slot? m)

/-- R249, R250: HIST_SET stores its count; HIST_ADD adds modulo 2^64 and answers the new count; every other entry stays. -/
def Obligations.HistogramWritesOneEntry : Prop :=
  ∀ (s : State) (x : Sym) (c : Value), s.err = false →
    (∃ h, exec (.histSet x c) s = .next ({ s with hist := h }.respond .ok 0) ∧
      ∀ y, ({ s with hist := h } : State).histAt y = if y = x then c else s.histAt y) ∧
    (∃ h, exec (.histAdd x c) s = .next ({ s with hist := h }.respond .ok (value ((s.histAt x).toNat + c.toNat))) ∧
      ∀ y, ({ s with hist := h } : State).histAt y = if y = x then value ((s.histAt x).toNat + c.toNat) else s.histAt y)

/-! ## Tree build, code table and dump -/

/-- R252, R359: BUILD refuses fewer than two symbols with E_PRECOND(u), then an arena with fewer than 2u − 1 free slots with
E_NOMEM(free), before any state changes. -/
def Obligations.BuildChecksBeforeItChanges : Prop :=
  ∀ s : State, s.err = false →
    (s.symbolCount < 2 → exec .build s = .next (s.raise .ePrecond (value s.symbolCount))) ∧
    (2 ≤ s.symbolCount → s.freeSlots < 2 * s.symbolCount - 1 →
      exec .build s = .next (s.raise .eNoMem (value s.freeSlots)))

/-- R252: BUILD answers the number u of symbols with a non-zero count, leaves the queue empty, sets HDR_TSIZE to 3u − 1 and ROOT to
a tree of the shape and symbols that merging the ordered list of leaves gives (R210), whose leaves are exactly those symbols,
each once with its count as frequency, and whose frequency is the sum of all counts modulo 2^64. Its 2u − 1 nodes were free and
are live, and only the root has no parent; live nodes and every other store stay as they were. -/
def Obligations.BuildMakesTheTreeOfTheHistogram : Prop :=
  ∀ s : State, s.err = false → 2 ≤ s.symbolCount → 2 * s.symbolCount - 1 ≤ s.freeSlots →
    ∃ a v h r, let t := { s with arena := a, pqSlots := v, pqHead := h, pqTail := h, root := r,
                                 hdrTsize := BitVec.ofNat 16 (3 * s.symbolCount - 1) }
      exec .build s = .next (t.respond .ok (value s.symbolCount)) ∧
      (∀ n, s.valid n = true → t.slot? n = s.slot? n) ∧
      t.freeSlots + (2 * s.symbolCount - 1) = s.freeSlots ∧ (t.node r).hasParent = false ∧
      (t.node r).freq = ((List.range 256).map fun k => s.histAt (BitVec.ofNat 8 k)).sum ∧
      ∃ tr sh, s.MadeTree t r tr ∧
        (∀ n ∈ tr.postorder, (t.node n).isLeaf = true → (t.node n).freq = s.histAt (t.node n).sym) ∧ s.mergedTree = some sh ∧ tr.sameShape sh = true ∧
        tr.symbols.Nodup ∧ ∀ x, x ∈ tr.symbols ↔ s.histAt x ≠ 0

/-- R280, R282 to R284, I16: on a tree whose paths fit a BitCode, CODETABLE answers the number of leaves, repeated symbols counted
each time, and makes valid exactly the entries of the tree's symbols. Each code leads from ROOT to a leaf of its symbol, the one
visited last where several hold the symbol, and no code is a prefix of another symbol's. -/
def Obligations.CodeTableHoldsPrefixFreeTreePaths : Prop :=
  ∀ (s : State) (tr : NodeTree), s.err = false → s.valid s.root = true → s.treeAt s.root = some tr → tr.height ≤ 256 →
    ∃ c, let t := { s with ct := c }
      exec .codeTable s = .next (t.respond .ok (value tr.leafCount)) ∧
      (∀ x, (t.ctAt x).valid = true ↔ x ∈ tr.symbols) ∧
      (∀ x ∈ tr.symbols, tr.Reaches (t.ctAt x).code.toList x ∧
        ∀ p, tr.Reaches p x → p = (t.ctAt x).code.toList ∨ VisitedBefore p (t.ctAt x).code.toList) ∧
      ∀ x ∈ tr.symbols, ∀ y ∈ tr.symbols, x ≠ y → ¬ (t.ctAt x).code.toList <+: (t.ctAt y).code.toList

/-- R283, R289, R321, R322: the four commands on ROOT raise E_OPERAND(ROOT) when it is NULL or names a free slot, DECODE even when
HDR_FSIZE is 0. -/
def Obligations.RootCommandsRefuseAnInvalidRoot : Prop :=
  ∀ s : State, s.err = false → s.valid s.root = false →
    ∀ i ∈ [Instr.codeTable, .serialize, .decSym, .decodeAll],
      exec i s = .next (s.raise .eOperand (value s.root.toNat))

/-- R286, R287: CT_BIT answers bit i of the symbol's code, E_NOCODE for an absent symbol before E_OPERAND for an index at or
beyond the length; CT_LOADBC copies the code to BC and answers its length, or raises E_NOCODE. -/
def Obligations.CodeTableReadsAnswerTheCode : Prop :=
  ∀ (s : State) (x : Sym) (k : BitVec 16), s.err = false →
    ((s.ctAt x).valid = false →
      exec (.ctBit x k) s = .next (s.raise .eNoCode (value x.toNat)) ∧
      exec (.ctLoadBc x) s = .next (s.raise .eNoCode (value x.toNat))) ∧
    ((s.ctAt x).valid = true →
      ((s.ctAt x).code.len ≤ k.toNat → exec (.ctBit x k) s = .next (s.raise .eOperand (value k.toNat))) ∧
      (∀ b, (s.ctAt x).code.toList[k.toNat]? = some b → exec (.ctBit x k) s = .next (s.respond .ok (if b then 1 else 0))) ∧
      exec (.ctLoadBc x) s = .next ({ s with bc := (s.ctAt x).code }.respond .ok (value (s.ctAt x).code.len)))

/-- R93, R288: the dump of a tree with L leaves is 3L − 1 bytes. -/
def Obligations.DumpIsThreeBytesALeafLessOne : Prop := ∀ tr : NodeTree, tr.dump.length = 3 * tr.leafCount - 1

/-- R288, R290, R359: check_dump accepts exactly the dumps of trees and answers the leaf count. It answers the offset o of a fault
exactly where the bytes before o are complete tree dumps one after the other and the byte at o is an 'L' with no symbol byte, an
'I' with fewer than two trees before it or no marker, or where o is the length and the trees are not exactly one. -/
def Obligations.CheckDumpAcceptsExactlyTreeDumps : Prop :=
  ∀ t : List Byte,
    (∀ leaves, checkDump t 0 0 0 = .good leaves ↔ ∃ tr : NodeTree, tr.dump = t ∧ tr.leafCount = leaves) ∧
    ∀ o, checkDump t 0 0 0 = .bad o ↔ ∃ trs : List NodeTree, trs.flatMap NodeTree.dump = t.take o ∧
      ((o = t.length ∧ trs.length ≠ 1) ∨
       (t[o]? = some 0x4C ∧ o + 1 = t.length) ∨
       (t[o]? = some 0x49 ∧ trs.length < 2) ∨
       ∃ m, t[o]? = some m ∧ m ≠ 0x4C ∧ m ≠ 0x49)

/-- R291 to R293: DESERIALIZE of the dump of a tree rebuilds a tree of the same shape with the same symbol at each leaf and
frequency 0, answers the leaf count, and leaves the stack empty with the dump's length as its capacity. The tree's 2L − 1 nodes
were free and are live, and only the root has no parent; live nodes stay. -/
def Obligations.DeserializeRebuildsTheDumpedTree : Prop :=
  ∀ (s : State) (tr : NodeTree) (rest : List SourceEvent), s.err = false → tr.leafCount ≤ 256 →
    2 * tr.leafCount - 1 ≤ s.freeSlots → s.hdrTsize.toNat = tr.dump.length →
    s.source = tr.dump.map .byte ++ rest →
    ∃ a v r, let t := { s with arena := a, nse := v, nsTop := 0, nsCap := tr.dump.length, root := r,
                               source := rest, taken := s.taken + tr.dump.length }
      exec .deserialize s = .next (t.respond .ok (value tr.leafCount)) ∧
      (∀ n, s.valid n = true → t.slot? n = s.slot? n) ∧
      t.freeSlots + (2 * tr.leafCount - 1) = s.freeSlots ∧ (t.node r).hasParent = false ∧
      ∃ tr', s.MadeTree t r tr' ∧ tr'.sameShape tr = true ∧ ∀ n ∈ tr'.postorder, (t.node n).freq = 0

/-- R292: DESERIALIZE's errors in their order: a length above 767 before anything is read, a short read, a malformed dump, an
arena without 2L − 1 free slots; each leaves only the bytes read taken. The offset of a malformed dump is check_dump's, which
CheckDumpAcceptsExactlyTreeDumps states. -/
def Obligations.DeserializeRefusesInOrder : Prop :=
  ∀ s : State, s.err = false →
    (767 < s.hdrTsize.toNat → exec .deserialize s = .next (s.raise .eDump (value s.hdrTsize.toNat))) ∧
    ∀ t s₁, s.hdrTsize.toNat ≤ 767 → s.sourceRead s.hdrTsize.toNat = some (t, s₁) →
      (t.length < s.hdrTsize.toNat → exec .deserialize s = .next (s₁.raise .eTrunc (value t.length))) ∧
      (∀ o, t.length = s.hdrTsize.toNat → checkDump t 0 0 0 = .bad o →
        exec .deserialize s = .next (s₁.raise .eDump (value o))) ∧
      (∀ leaves, t.length = s.hdrTsize.toNat → checkDump t 0 0 0 = .good leaves → s.freeSlots < 2 * leaves - 1 →
        exec .deserialize s = .next (s₁.raise .eNoMem (value s.freeSlots)))

/-! ## Channels, header and bitstream -/

/-- R95, R96: SourceRead takes the next bytes in order, fewer than asked only where the source ends the read; SinkWrite appends
the bytes accepted in order, fewer than offered only where the sink ends the write (the scripts are the model's, log 3,
log 4). -/
def Obligations.ChannelsMoveBytesInOrder : Prop :=
  ∀ s : State,
    (∀ n t s', s.sourceRead n = some (t, s') → t.length ≤ n ∧ s' = { s with source := s'.source, taken := s.taken + t.length } ∧
      (t.length = n → s.source = t.map .byte ++ s'.source) ∧
      (t.length < n → s.source = t.map .byte ++ .zeroTransfer :: s'.source ∨ s.source = t.map .byte ∧ s'.source = [])) ∧
    (∀ bs w s', s.sinkWrite bs = some (w, s') → w ≤ bs.length ∧
      s' = { s with sinkPlan := s'.sinkPlan, sink := s.sink ++ bs.take w } ∧
      (w < bs.length → s.sinkPlan = List.replicate w .accept ++ .zeroTransfer :: s'.sinkPlan))

/-- R188, R289 with R288, R341 with R340 and R90: BC_RENDER, SERIALIZE and HDR_WRITE offer exactly their bytes to the sink in one
write and answer their number, or raise E_SINK with the count accepted. The model's choices in it: the end of the sink's plan
accepts every byte (log 4), and a sink that never answers ends the step in a fault (log 5). -/
def Obligations.SendingCommandsSendTheirBytes : Prop :=
  ∀ s : State, s.err = false →
    s.Sends (exec .bcRender s) (s.bc.toList.map fun b => if b then 0x31 else 0x30) (value s.bc.len) ∧
    s.Sends (exec .hdrWrite s) (headerOf s.params.magic s.hdrPerms s.hdrTsize s.hdrFsize) 16 ∧
    ∀ tr, s.valid s.root = true → s.treeAt s.root = some tr →
      s.Sends (exec .serialize s) tr.dump (value tr.dump.length)

/-- R342, R343: HDR_READ reads 16 bytes before it looks at any; fewer raise E_TRUNC, another magic raises E_MAGIC with no header
register changed; else the fields are loaded, each little-endian. -/
def Obligations.HdrReadLoadsTheHeader : Prop :=
  ∀ s : State, s.err = false →
    (∀ p t f rest, s.source = (headerOf s.params.magic p t f).map .byte ++ rest →
      exec .hdrRead s = .next ({ s with hdrPerms := p, hdrTsize := t, hdrFsize := f, source := rest,
                                        taken := s.taken + 16 }.respond .ok 16)) ∧
    (∀ m p t f rest, m ≠ s.params.magic → s.source = (headerOf m p t f).map .byte ++ rest →
      exec .hdrRead s = .next ({ s with source := rest, taken := s.taken + 16 }.raise .eMagic (m.setWidth 64))) ∧
    (∀ t s₁, s.sourceRead 16 = some (t, s₁) → t.length < 16 →
      exec .hdrRead s = .next (s₁.raise .eTrunc (value t.length)))

/-- R313 to R315 with R84: SETBIT, CLRBIT and GETBIT act on exactly the bit of their index; an index outside the buffer raises
E_OPERAND. For a bit no command has written, that GETBIT answers the one value the buffer holds is the model's reading (log 8,
DEDUCED). -/
def Obligations.BitCommandsActOnOneBit : Prop :=
  ∀ (s : State) (k : BitVec 16), s.err = false →
    (8 * s.params.blockBytes ≤ k.toNat →
      ∀ i ∈ [Instr.setBit k, .clrBit k, .getBit k], exec i s = .next (s.raise .eOperand (value k.toNat))) ∧
    (k.toNat < 8 * s.params.blockBytes →
      exec (.getBit k) s = .next (s.respond .ok (if s.bufBit k.toNat then 1 else 0)) ∧
      (∃ u, exec (.setBit k) s = .next ({ s with buf := u }.respond .ok 0) ∧
        ∀ j, ({ s with buf := u } : State).bufBit j = if j = k.toNat then true else s.bufBit j) ∧
      (∃ u, exec (.clrBit k) s = .next ({ s with buf := u }.respond .ok 0) ∧
        ∀ j, ({ s with buf := u } : State).bufBit j = if j = k.toNat then false else s.bufBit j))

/-- R311, R316: READBIT answers the bit at RD_CUR; with the loaded block used up it first loads up to BLOCK_BYTES bytes, and only
those bytes of the buffer change; a refill of zero bytes answers EXHAUSTED. -/
def Obligations.ReadBitAnswersTheNextBit : Prop :=
  ∀ s : State, s.err = false →
    (s.rdCur ≠ s.rdEnd →
      exec .readBit s = .next ({ s with rdCur := s.rdCur + 1 }.respond .ok (if s.bufBit s.rdCur then 1 else 0))) ∧
    (s.rdCur = s.rdEnd →
      (∀ s₁, s.sourceRead s.params.blockBytes = some ([], s₁) → exec .readBit s = .next (s₁.respond .exhausted 0)) ∧
      (∀ b t s₁, s.sourceRead s.params.blockBytes = some (b :: t, s₁) → ∃ u,
        exec .readBit s = .next ({ s₁ with buf := u, rdEnd := 8 * (t.length + 1), rdCur := 1 }.respond .ok
          (if b.getLsbD 0 then 1 else 0)) ∧
        ∀ j, ({ s with buf := u } : State).bufBit j = (bitsOf (b :: t)).getD j (s.bufBit j)))

/-- R89, R311, R323: with the loaded block used up, the reader returns the bits of the bytes the source still supplies, in order,
least significant bit first, whatever BLOCK_BYTES is. The last refill may be short because the end of the source's list is a
transfer of zero bytes (log 3). -/
def Obligations.ReaderReturnsTheSourceBits : Prop :=
  ∀ (s : State) (bs : List Byte) (k : Nat), s.rdCur = s.rdEnd → s.source = bs.map .byte → k ≤ 8 * bs.length →
    ∃ t, s.readsBits ((bitsOf bs).take k) = some t

/-- R89, R310, R317, R318, R323: with a sink that accepts every byte it is offered, WRITECODE and WRITEBC append exactly the bits of
their code, in order, to the bits already in the sink and the buffer, whatever BLOCK_BYTES is, and answer their number; WR_CUR
moves on by it modulo 8·BLOCK_BYTES, and every buffer bit they do not write stays. A symbol with no code raises E_NOCODE. That
the end of the sink's plan accepts every byte is the model's choice (log 4). -/
def Obligations.WritersAppendTheirCode : Prop :=
  ∀ s : State, s.err = false →
    let Appends (r : Result) (c : BitCode) :=
      let sent := (s.wrCur + c.len) / s.bufBits * s.params.blockBytes
      (∀ e ∈ s.sinkPlan.take sent, e = .accept) → ∃ b k,
        let t := { s with buf := b, wrCur := (s.wrCur + c.len) % s.bufBits, sinkPlan := s.sinkPlan.drop sent, sink := k }
        r = .next (t.respond .ok (value c.len)) ∧ t.written = s.written ++ c.toList ∧
        ∀ j, (∀ i < c.len, (s.wrCur + i) % s.bufBits ≠ j) → t.bufBit j = s.bufBit j
    (∀ x, (s.ctAt x).valid = false → exec (.writeCode x) s = .next (s.raise .eNoCode (value x.toNat))) ∧
    (s.wrCur < s.bufBits →
      Appends (exec .writeBc s) s.bc ∧
      ∀ x, (s.ctAt x).valid = true → Appends (exec (.writeCode x) s) (s.ctAt x).code)

/-- R310, R317, R318: a bit that fills the buffer sends the block. Where that is the bit b of a code c ++ b :: p, with n blocks of the
same code accepted whole before it, and the sink accepts only w bytes of this block, WRITEBC and WRITECODE raise E_SINK(w) with
WR_CUR = 0: the bits up to b are written, the sink has the bytes it accepted, and the bits p are not written. The sink's plan is the
model's (log 4). -/
def Obligations.RefusedBlockRaisesSink : Prop :=
  ∀ (s : State) (c : List Bool) (b : Bool) (p : List Bool) (n w : Nat) (plan : List SinkEvent), s.err = false →
    s.wrCur < s.bufBits → s.wrCur + c.length + 1 = (n + 1) * s.bufBits → w < s.params.blockBytes →
    s.sinkPlan = List.replicate (n * s.params.blockBytes + w) .accept ++ .zeroTransfer :: plan →
    ∃ u k, let t := { s with buf := u, wrCur := 0, sinkPlan := plan, sink := s.sink ++ k }
      let bits := s.pending ++ c ++ [b]
      k.length = n * s.params.blockBytes + w ∧ bitsOf k = bits.take (8 * k.length) ∧
      (∀ j, t.bufBit j = (bits.drop (n * s.bufBits)).getD j (s.bufBit j)) ∧
      (s.bc.toList = c ++ b :: p → exec .writeBc s = .next (t.raise .eSink (value w))) ∧
      ∀ x, (s.ctAt x).valid = true → (s.ctAt x).code.toList = c ++ b :: p →
        exec (.writeCode x) s = .next (t.raise .eSink (value w))

/-- R109, R319: FLUSH offers the first ceil(WR_CUR / 8) bytes of the buffer after padding, whose first WR_CUR bits are the pending
ones, sets WR_CUR to 0 and answers the number of bytes; only padding bits of the buffer change; a sink that accepts w fewer raises
E_SINK(w). Nothing is said of the padding bits (log 7); the end of the sink's plan accepts every byte (log 4). -/
def Obligations.FlushSendsThePendingBits : Prop :=
  ∀ s : State, s.err = false → s.wrCur < s.bufBits →
    ∃ u d, let t := { s with buf := u, draws := d, wrCur := 0 }
      let bs := t.bufBytes ((s.wrCur + 7) / 8)
      bs.length = (s.wrCur + 7) / 8 ∧ (bitsOf bs).take s.wrCur = s.pending ∧
      (∀ j, j < s.wrCur ∨ 8 * bs.length ≤ j → t.bufBit j = s.bufBit j) ∧
      (s.sinkPlan = [] →
        exec .flush s = .next ({ t with sink := s.sink ++ bs }.respond .ok (value bs.length))) ∧
      ∀ w t', t.sinkWrite bs = some (w, t') →
        exec .flush s = .next (if w < bs.length then t'.raise .eSink (value w) else t'.respond .ok (value bs.length))

/-- R320, R321: DECSYM answers the symbol that the next bits lead to from ROOT; when the stream ends after j bits inside the tree
it raises E_TRUNC(j), and it refuses a leaf root with E_DEGEN. -/
def Obligations.DecSymFollowsTheBits : Prop :=
  ∀ (s : State) (tr : NodeTree), s.err = false → s.valid s.root = true → s.treeAt s.root = some tr →
    (∀ n x, tr = .leaf n x → exec .decSym s = .next (s.raise .eDegen (value s.root.toNat))) ∧
    (∀ p x s', p ≠ [] → tr.Reaches p x → s.readsBits p = some s' →
      exec .decSym s = .next (s'.respond .ok (value x.toNat))) ∧
    (∀ p s' s'', tr.StopsInside p → s.readsBits p = some s' → s'.readBit = .exhausted s'' →
      exec .decSym s = .next (s''.raise .eTrunc (value p.length)))

/-- R322: DECODE with HDR_FSIZE = 0 reads and writes nothing; else it refuses a leaf root, and with a sink that accepts every
byte it is offered (its plan and the plan's end are the model's, log 4) writes exactly the HDR_FSIZE
symbols the bits spell, stopping there, and answers their number. A stream that ends
after k symbols raises E_TRUNC(k), a sink that refuses the byte of symbol k raises E_SINK(k). -/
def Obligations.DecodeWritesTheDeclaredSymbols : Prop :=
  ∀ (s : State) (tr : NodeTree), s.err = false → s.valid s.root = true → s.treeAt s.root = some tr →
    (s.hdrFsize = 0 → exec .decodeAll s = .next (s.respond .ok 0)) ∧
    (∀ n x, s.hdrFsize ≠ 0 → tr = .leaf n x → exec .decodeAll s = .next (s.raise .eDegen (value s.root.toNat))) ∧
    (∀ (xs : List Sym) (ps : List (List Bool)) s', tr.height ≠ 0 → xs.length = s.hdrFsize.toNat →
      (∀ e ∈ s.sinkPlan.take xs.length, e = .accept) → List.Forall₂ (fun x p => tr.Reaches p x) xs ps →
      s.readsBits ps.flatten = some s' →
      exec .decodeAll s =
        .next ({ s' with sink := s.sink ++ xs, sinkPlan := s.sinkPlan.drop xs.length }.respond .ok s.hdrFsize)) ∧
    (∀ (xs : List Sym) (ps : List (List Bool)) p s' s'', tr.height ≠ 0 → xs.length < s.hdrFsize.toNat →
      (∀ e ∈ s.sinkPlan.take xs.length, e = .accept) → List.Forall₂ (fun x p => tr.Reaches p x) xs ps →
      tr.StopsInside p → s.readsBits (ps.flatten ++ p) = some s' →
      s'.readBit = .exhausted s'' →
      exec .decodeAll s =
        .next ({ s'' with sink := s.sink ++ xs, sinkPlan := s.sinkPlan.drop xs.length }.raise .eTrunc (value xs.length))) ∧
    (∀ (xs : List Sym) (x : Sym) (ps : List (List Bool)) plan s', tr.height ≠ 0 → xs.length < s.hdrFsize.toNat →
      s.sinkPlan = List.replicate xs.length .accept ++ .zeroTransfer :: plan →
      List.Forall₂ (fun x p => tr.Reaches p x) (xs ++ [x]) ps → s.readsBits ps.flatten = some s' →
      exec .decodeAll s = .next ({ s' with sink := s.sink ++ xs, sinkPlan := plan }.raise .eSink (value xs.length)))
end

