-- ==== Sys2Proof/Laws/Encode.lean ====
section
/-! SUPPORT. The fields of a command made from fields. -/

namespace Sys2Proof

@[simp] theorem Command.make_op (op a : BitVec 8) (b : BitVec 16) (d : BitVec 64) : (Command.make op a b d).op = op := by
  apply BitVec.eq_of_getLsbD_eq
  intro i hi
  simp only [Command.make, Command.op, BitVec.getLsbD_extractLsb', BitVec.getLsbD_append, Nat.zero_add, hi, decide_true,
    Bool.true_and, if_true]

@[simp] theorem Command.make_a (op a : BitVec 8) (b : BitVec 16) (d : BitVec 64) : (Command.make op a b d).a = a := by
  apply BitVec.eq_of_getLsbD_eq
  intro i hi
  have h1 : 8 + i - 8 = i := by omega
  have h2 : ¬ (8 + i < 8) := by omega
  simp only [Command.make, Command.a, BitVec.getLsbD_extractLsb', BitVec.getLsbD_append, h2, h1, hi, decide_true,
    Bool.true_and, if_true, if_false]

@[simp] theorem Command.make_b (op a : BitVec 8) (b : BitVec 16) (d : BitVec 64) : (Command.make op a b d).b = b := by
  apply BitVec.eq_of_getLsbD_eq
  intro i hi
  have h1 : 16 + i - 8 - 8 = i := by omega
  have h2 : ¬ (16 + i < 8) := by omega
  have h3 : ¬ (16 + i - 8 < 8) := by omega
  simp only [Command.make, Command.b, BitVec.getLsbD_extractLsb', BitVec.getLsbD_append, h2, h3, h1, hi, decide_true,
    Bool.true_and, if_false]

@[simp] theorem Command.make_d (op a : BitVec 8) (b : BitVec 16) (d : BitVec 64) : (Command.make op a b d).d = d := rfl

end Sys2Proof
end

