-- ==== Sys2Proof/Laws/State.lean ====
section
/-! SUPPORT. One lemma per field per update, true by rfl, so that no proof unfolds a record update. -/

namespace Sys2Proof.Machine

@[simp] theorem State.reply_code (s : State) (c : Code) (v : Value) : (s.reply c v).code = s.code := rfl
@[simp] theorem State.reply_err (s : State) (c : Code) (v : Value) : (s.reply c v).err = s.err := rfl
@[simp] theorem State.reply_result (s : State) (c : Code) (v : Value) : (s.reply c v).result = s.result := rfl
@[simp] theorem State.reply_hdrPerms (s : State) (c : Code) (v : Value) : (s.reply c v).hdrPerms = s.hdrPerms := rfl
@[simp] theorem State.reply_hdrTsize (s : State) (c : Code) (v : Value) : (s.reply c v).hdrTsize = s.hdrTsize := rfl
@[simp] theorem State.reply_hdrFsize (s : State) (c : Code) (v : Value) : (s.reply c v).hdrFsize = s.hdrFsize := rfl
@[simp] theorem State.reply_root (s : State) (c : Code) (v : Value) : (s.reply c v).root = s.root := rfl
@[simp] theorem State.reply_hist (s : State) (c : Code) (v : Value) : (s.reply c v).hist = s.hist := rfl
@[simp] theorem State.reply_arena (s : State) (c : Code) (v : Value) : (s.reply c v).arena = s.arena := rfl
@[simp] theorem State.reply_pqSlots (s : State) (c : Code) (v : Value) : (s.reply c v).pqSlots = s.pqSlots := rfl
@[simp] theorem State.reply_pqHead (s : State) (c : Code) (v : Value) : (s.reply c v).pqHead = s.pqHead := rfl
@[simp] theorem State.reply_pqTail (s : State) (c : Code) (v : Value) : (s.reply c v).pqTail = s.pqTail := rfl
@[simp] theorem State.reply_nse (s : State) (c : Code) (v : Value) : (s.reply c v).nse = s.nse := rfl
@[simp] theorem State.reply_nsTop (s : State) (c : Code) (v : Value) : (s.reply c v).nsTop = s.nsTop := rfl
@[simp] theorem State.reply_nsCap (s : State) (c : Code) (v : Value) : (s.reply c v).nsCap = s.nsCap := rfl
@[simp] theorem State.reply_bc (s : State) (c : Code) (v : Value) : (s.reply c v).bc = s.bc := rfl
@[simp] theorem State.reply_ct (s : State) (c : Code) (v : Value) : (s.reply c v).ct = s.ct := rfl
@[simp] theorem State.reply_buf (s : State) (c : Code) (v : Value) : (s.reply c v).buf = s.buf := rfl
@[simp] theorem State.reply_wrCur (s : State) (c : Code) (v : Value) : (s.reply c v).wrCur = s.wrCur := rfl
@[simp] theorem State.reply_rdCur (s : State) (c : Code) (v : Value) : (s.reply c v).rdCur = s.rdCur := rfl
@[simp] theorem State.reply_rdEnd (s : State) (c : Code) (v : Value) : (s.reply c v).rdEnd = s.rdEnd := rfl
@[simp] theorem State.reply_params (s : State) (c : Code) (v : Value) : (s.reply c v).params = s.params := rfl
@[simp] theorem State.reply_draws (s : State) (c : Code) (v : Value) : (s.reply c v).draws = s.draws := rfl
@[simp] theorem State.reply_port (s : State) (c : Code) (v : Value) : (s.reply c v).port = s.port := rfl
@[simp] theorem State.reply_resps (s : State) (c : Code) (v : Value) : (s.reply c v).resps = s.resps ++ [⟨c, v⟩] := rfl
@[simp] theorem State.reply_source (s : State) (c : Code) (v : Value) : (s.reply c v).source = s.source := rfl
@[simp] theorem State.reply_taken (s : State) (c : Code) (v : Value) : (s.reply c v).taken = s.taken := rfl
@[simp] theorem State.reply_sinkPlan (s : State) (c : Code) (v : Value) : (s.reply c v).sinkPlan = s.sinkPlan := rfl
@[simp] theorem State.reply_sink (s : State) (c : Code) (v : Value) : (s.reply c v).sink = s.sink := rfl

@[simp] theorem State.respond_code (s : State) (c : Code) (v : Value) : (s.respond c v).code = c := rfl
@[simp] theorem State.respond_err (s : State) (c : Code) (v : Value) : (s.respond c v).err = s.err := rfl
@[simp] theorem State.respond_result (s : State) (c : Code) (v : Value) : (s.respond c v).result = v := rfl
@[simp] theorem State.respond_hdrPerms (s : State) (c : Code) (v : Value) : (s.respond c v).hdrPerms = s.hdrPerms := rfl
@[simp] theorem State.respond_hdrTsize (s : State) (c : Code) (v : Value) : (s.respond c v).hdrTsize = s.hdrTsize := rfl
@[simp] theorem State.respond_hdrFsize (s : State) (c : Code) (v : Value) : (s.respond c v).hdrFsize = s.hdrFsize := rfl
@[simp] theorem State.respond_root (s : State) (c : Code) (v : Value) : (s.respond c v).root = s.root := rfl
@[simp] theorem State.respond_hist (s : State) (c : Code) (v : Value) : (s.respond c v).hist = s.hist := rfl
@[simp] theorem State.respond_arena (s : State) (c : Code) (v : Value) : (s.respond c v).arena = s.arena := rfl
@[simp] theorem State.respond_pqSlots (s : State) (c : Code) (v : Value) : (s.respond c v).pqSlots = s.pqSlots := rfl
@[simp] theorem State.respond_pqHead (s : State) (c : Code) (v : Value) : (s.respond c v).pqHead = s.pqHead := rfl
@[simp] theorem State.respond_pqTail (s : State) (c : Code) (v : Value) : (s.respond c v).pqTail = s.pqTail := rfl
@[simp] theorem State.respond_nse (s : State) (c : Code) (v : Value) : (s.respond c v).nse = s.nse := rfl
@[simp] theorem State.respond_nsTop (s : State) (c : Code) (v : Value) : (s.respond c v).nsTop = s.nsTop := rfl
@[simp] theorem State.respond_nsCap (s : State) (c : Code) (v : Value) : (s.respond c v).nsCap = s.nsCap := rfl
@[simp] theorem State.respond_bc (s : State) (c : Code) (v : Value) : (s.respond c v).bc = s.bc := rfl
@[simp] theorem State.respond_ct (s : State) (c : Code) (v : Value) : (s.respond c v).ct = s.ct := rfl
@[simp] theorem State.respond_buf (s : State) (c : Code) (v : Value) : (s.respond c v).buf = s.buf := rfl
@[simp] theorem State.respond_wrCur (s : State) (c : Code) (v : Value) : (s.respond c v).wrCur = s.wrCur := rfl
@[simp] theorem State.respond_rdCur (s : State) (c : Code) (v : Value) : (s.respond c v).rdCur = s.rdCur := rfl
@[simp] theorem State.respond_rdEnd (s : State) (c : Code) (v : Value) : (s.respond c v).rdEnd = s.rdEnd := rfl
@[simp] theorem State.respond_params (s : State) (c : Code) (v : Value) : (s.respond c v).params = s.params := rfl
@[simp] theorem State.respond_draws (s : State) (c : Code) (v : Value) : (s.respond c v).draws = s.draws := rfl
@[simp] theorem State.respond_port (s : State) (c : Code) (v : Value) : (s.respond c v).port = s.port := rfl
@[simp] theorem State.respond_resps (s : State) (c : Code) (v : Value) : (s.respond c v).resps = s.resps ++ [⟨c, v⟩] := rfl
@[simp] theorem State.respond_source (s : State) (c : Code) (v : Value) : (s.respond c v).source = s.source := rfl
@[simp] theorem State.respond_taken (s : State) (c : Code) (v : Value) : (s.respond c v).taken = s.taken := rfl
@[simp] theorem State.respond_sinkPlan (s : State) (c : Code) (v : Value) : (s.respond c v).sinkPlan = s.sinkPlan := rfl
@[simp] theorem State.respond_sink (s : State) (c : Code) (v : Value) : (s.respond c v).sink = s.sink := rfl

@[simp] theorem State.raise_code (s : State) (c : Code) (v : Value) : (s.raise c v).code = c := rfl
@[simp] theorem State.raise_err (s : State) (c : Code) (v : Value) : (s.raise c v).err = true := rfl
@[simp] theorem State.raise_result (s : State) (c : Code) (v : Value) : (s.raise c v).result = v := rfl
@[simp] theorem State.raise_hdrPerms (s : State) (c : Code) (v : Value) : (s.raise c v).hdrPerms = s.hdrPerms := rfl
@[simp] theorem State.raise_hdrTsize (s : State) (c : Code) (v : Value) : (s.raise c v).hdrTsize = s.hdrTsize := rfl
@[simp] theorem State.raise_hdrFsize (s : State) (c : Code) (v : Value) : (s.raise c v).hdrFsize = s.hdrFsize := rfl
@[simp] theorem State.raise_root (s : State) (c : Code) (v : Value) : (s.raise c v).root = s.root := rfl
@[simp] theorem State.raise_hist (s : State) (c : Code) (v : Value) : (s.raise c v).hist = s.hist := rfl
@[simp] theorem State.raise_arena (s : State) (c : Code) (v : Value) : (s.raise c v).arena = s.arena := rfl
@[simp] theorem State.raise_pqSlots (s : State) (c : Code) (v : Value) : (s.raise c v).pqSlots = s.pqSlots := rfl
@[simp] theorem State.raise_pqHead (s : State) (c : Code) (v : Value) : (s.raise c v).pqHead = s.pqHead := rfl
@[simp] theorem State.raise_pqTail (s : State) (c : Code) (v : Value) : (s.raise c v).pqTail = s.pqTail := rfl
@[simp] theorem State.raise_nse (s : State) (c : Code) (v : Value) : (s.raise c v).nse = s.nse := rfl
@[simp] theorem State.raise_nsTop (s : State) (c : Code) (v : Value) : (s.raise c v).nsTop = s.nsTop := rfl
@[simp] theorem State.raise_nsCap (s : State) (c : Code) (v : Value) : (s.raise c v).nsCap = s.nsCap := rfl
@[simp] theorem State.raise_bc (s : State) (c : Code) (v : Value) : (s.raise c v).bc = s.bc := rfl
@[simp] theorem State.raise_ct (s : State) (c : Code) (v : Value) : (s.raise c v).ct = s.ct := rfl
@[simp] theorem State.raise_buf (s : State) (c : Code) (v : Value) : (s.raise c v).buf = s.buf := rfl
@[simp] theorem State.raise_wrCur (s : State) (c : Code) (v : Value) : (s.raise c v).wrCur = s.wrCur := rfl
@[simp] theorem State.raise_rdCur (s : State) (c : Code) (v : Value) : (s.raise c v).rdCur = s.rdCur := rfl
@[simp] theorem State.raise_rdEnd (s : State) (c : Code) (v : Value) : (s.raise c v).rdEnd = s.rdEnd := rfl
@[simp] theorem State.raise_params (s : State) (c : Code) (v : Value) : (s.raise c v).params = s.params := rfl
@[simp] theorem State.raise_draws (s : State) (c : Code) (v : Value) : (s.raise c v).draws = s.draws := rfl
@[simp] theorem State.raise_port (s : State) (c : Code) (v : Value) : (s.raise c v).port = s.port := rfl
@[simp] theorem State.raise_resps (s : State) (c : Code) (v : Value) : (s.raise c v).resps = s.resps ++ [⟨c, v⟩] := rfl
@[simp] theorem State.raise_source (s : State) (c : Code) (v : Value) : (s.raise c v).source = s.source := rfl
@[simp] theorem State.raise_taken (s : State) (c : Code) (v : Value) : (s.raise c v).taken = s.taken := rfl
@[simp] theorem State.raise_sinkPlan (s : State) (c : Code) (v : Value) : (s.raise c v).sinkPlan = s.sinkPlan := rfl
@[simp] theorem State.raise_sink (s : State) (c : Code) (v : Value) : (s.raise c v).sink = s.sink := rfl

@[simp] theorem State.setHist_code (s : State) (x : Sym) (v : Value) : (s.setHist x v).code = s.code := rfl
@[simp] theorem State.setHist_err (s : State) (x : Sym) (v : Value) : (s.setHist x v).err = s.err := rfl
@[simp] theorem State.setHist_result (s : State) (x : Sym) (v : Value) : (s.setHist x v).result = s.result := rfl
@[simp] theorem State.setHist_hdrPerms (s : State) (x : Sym) (v : Value) : (s.setHist x v).hdrPerms = s.hdrPerms := rfl
@[simp] theorem State.setHist_hdrTsize (s : State) (x : Sym) (v : Value) : (s.setHist x v).hdrTsize = s.hdrTsize := rfl
@[simp] theorem State.setHist_hdrFsize (s : State) (x : Sym) (v : Value) : (s.setHist x v).hdrFsize = s.hdrFsize := rfl
@[simp] theorem State.setHist_root (s : State) (x : Sym) (v : Value) : (s.setHist x v).root = s.root := rfl
@[simp] theorem State.setHist_arena (s : State) (x : Sym) (v : Value) : (s.setHist x v).arena = s.arena := rfl
@[simp] theorem State.setHist_pqSlots (s : State) (x : Sym) (v : Value) : (s.setHist x v).pqSlots = s.pqSlots := rfl
@[simp] theorem State.setHist_pqHead (s : State) (x : Sym) (v : Value) : (s.setHist x v).pqHead = s.pqHead := rfl
@[simp] theorem State.setHist_pqTail (s : State) (x : Sym) (v : Value) : (s.setHist x v).pqTail = s.pqTail := rfl
@[simp] theorem State.setHist_nse (s : State) (x : Sym) (v : Value) : (s.setHist x v).nse = s.nse := rfl
@[simp] theorem State.setHist_nsTop (s : State) (x : Sym) (v : Value) : (s.setHist x v).nsTop = s.nsTop := rfl
@[simp] theorem State.setHist_nsCap (s : State) (x : Sym) (v : Value) : (s.setHist x v).nsCap = s.nsCap := rfl
@[simp] theorem State.setHist_bc (s : State) (x : Sym) (v : Value) : (s.setHist x v).bc = s.bc := rfl
@[simp] theorem State.setHist_ct (s : State) (x : Sym) (v : Value) : (s.setHist x v).ct = s.ct := rfl
@[simp] theorem State.setHist_buf (s : State) (x : Sym) (v : Value) : (s.setHist x v).buf = s.buf := rfl
@[simp] theorem State.setHist_wrCur (s : State) (x : Sym) (v : Value) : (s.setHist x v).wrCur = s.wrCur := rfl
@[simp] theorem State.setHist_rdCur (s : State) (x : Sym) (v : Value) : (s.setHist x v).rdCur = s.rdCur := rfl
@[simp] theorem State.setHist_rdEnd (s : State) (x : Sym) (v : Value) : (s.setHist x v).rdEnd = s.rdEnd := rfl
@[simp] theorem State.setHist_params (s : State) (x : Sym) (v : Value) : (s.setHist x v).params = s.params := rfl
@[simp] theorem State.setHist_draws (s : State) (x : Sym) (v : Value) : (s.setHist x v).draws = s.draws := rfl
@[simp] theorem State.setHist_port (s : State) (x : Sym) (v : Value) : (s.setHist x v).port = s.port := rfl
@[simp] theorem State.setHist_resps (s : State) (x : Sym) (v : Value) : (s.setHist x v).resps = s.resps := rfl
@[simp] theorem State.setHist_source (s : State) (x : Sym) (v : Value) : (s.setHist x v).source = s.source := rfl
@[simp] theorem State.setHist_taken (s : State) (x : Sym) (v : Value) : (s.setHist x v).taken = s.taken := rfl
@[simp] theorem State.setHist_sinkPlan (s : State) (x : Sym) (v : Value) : (s.setHist x v).sinkPlan = s.sinkPlan := rfl
@[simp] theorem State.setHist_sink (s : State) (x : Sym) (v : Value) : (s.setHist x v).sink = s.sink := rfl

@[simp] theorem State.setCt_code (s : State) (x : Sym) (e : CtEntry) : (s.setCt x e).code = s.code := rfl
@[simp] theorem State.setCt_err (s : State) (x : Sym) (e : CtEntry) : (s.setCt x e).err = s.err := rfl
@[simp] theorem State.setCt_result (s : State) (x : Sym) (e : CtEntry) : (s.setCt x e).result = s.result := rfl
@[simp] theorem State.setCt_hdrPerms (s : State) (x : Sym) (e : CtEntry) : (s.setCt x e).hdrPerms = s.hdrPerms := rfl
@[simp] theorem State.setCt_hdrTsize (s : State) (x : Sym) (e : CtEntry) : (s.setCt x e).hdrTsize = s.hdrTsize := rfl
@[simp] theorem State.setCt_hdrFsize (s : State) (x : Sym) (e : CtEntry) : (s.setCt x e).hdrFsize = s.hdrFsize := rfl
@[simp] theorem State.setCt_root (s : State) (x : Sym) (e : CtEntry) : (s.setCt x e).root = s.root := rfl
@[simp] theorem State.setCt_hist (s : State) (x : Sym) (e : CtEntry) : (s.setCt x e).hist = s.hist := rfl
@[simp] theorem State.setCt_arena (s : State) (x : Sym) (e : CtEntry) : (s.setCt x e).arena = s.arena := rfl
@[simp] theorem State.setCt_pqSlots (s : State) (x : Sym) (e : CtEntry) : (s.setCt x e).pqSlots = s.pqSlots := rfl
@[simp] theorem State.setCt_pqHead (s : State) (x : Sym) (e : CtEntry) : (s.setCt x e).pqHead = s.pqHead := rfl
@[simp] theorem State.setCt_pqTail (s : State) (x : Sym) (e : CtEntry) : (s.setCt x e).pqTail = s.pqTail := rfl
@[simp] theorem State.setCt_nse (s : State) (x : Sym) (e : CtEntry) : (s.setCt x e).nse = s.nse := rfl
@[simp] theorem State.setCt_nsTop (s : State) (x : Sym) (e : CtEntry) : (s.setCt x e).nsTop = s.nsTop := rfl
@[simp] theorem State.setCt_nsCap (s : State) (x : Sym) (e : CtEntry) : (s.setCt x e).nsCap = s.nsCap := rfl
@[simp] theorem State.setCt_bc (s : State) (x : Sym) (e : CtEntry) : (s.setCt x e).bc = s.bc := rfl
@[simp] theorem State.setCt_buf (s : State) (x : Sym) (e : CtEntry) : (s.setCt x e).buf = s.buf := rfl
@[simp] theorem State.setCt_wrCur (s : State) (x : Sym) (e : CtEntry) : (s.setCt x e).wrCur = s.wrCur := rfl
@[simp] theorem State.setCt_rdCur (s : State) (x : Sym) (e : CtEntry) : (s.setCt x e).rdCur = s.rdCur := rfl
@[simp] theorem State.setCt_rdEnd (s : State) (x : Sym) (e : CtEntry) : (s.setCt x e).rdEnd = s.rdEnd := rfl
@[simp] theorem State.setCt_params (s : State) (x : Sym) (e : CtEntry) : (s.setCt x e).params = s.params := rfl
@[simp] theorem State.setCt_draws (s : State) (x : Sym) (e : CtEntry) : (s.setCt x e).draws = s.draws := rfl
@[simp] theorem State.setCt_port (s : State) (x : Sym) (e : CtEntry) : (s.setCt x e).port = s.port := rfl
@[simp] theorem State.setCt_resps (s : State) (x : Sym) (e : CtEntry) : (s.setCt x e).resps = s.resps := rfl
@[simp] theorem State.setCt_source (s : State) (x : Sym) (e : CtEntry) : (s.setCt x e).source = s.source := rfl
@[simp] theorem State.setCt_taken (s : State) (x : Sym) (e : CtEntry) : (s.setCt x e).taken = s.taken := rfl
@[simp] theorem State.setCt_sinkPlan (s : State) (x : Sym) (e : CtEntry) : (s.setCt x e).sinkPlan = s.sinkPlan := rfl
@[simp] theorem State.setCt_sink (s : State) (x : Sym) (e : CtEntry) : (s.setCt x e).sink = s.sink := rfl

@[simp] theorem State.setBufBit_code (s : State) (i : Nat) (b : Bool) : (s.setBufBit i b).code = s.code := rfl
@[simp] theorem State.setBufBit_err (s : State) (i : Nat) (b : Bool) : (s.setBufBit i b).err = s.err := rfl
@[simp] theorem State.setBufBit_result (s : State) (i : Nat) (b : Bool) : (s.setBufBit i b).result = s.result := rfl
@[simp] theorem State.setBufBit_hdrPerms (s : State) (i : Nat) (b : Bool) : (s.setBufBit i b).hdrPerms = s.hdrPerms := rfl
@[simp] theorem State.setBufBit_hdrTsize (s : State) (i : Nat) (b : Bool) : (s.setBufBit i b).hdrTsize = s.hdrTsize := rfl
@[simp] theorem State.setBufBit_hdrFsize (s : State) (i : Nat) (b : Bool) : (s.setBufBit i b).hdrFsize = s.hdrFsize := rfl
@[simp] theorem State.setBufBit_root (s : State) (i : Nat) (b : Bool) : (s.setBufBit i b).root = s.root := rfl
@[simp] theorem State.setBufBit_hist (s : State) (i : Nat) (b : Bool) : (s.setBufBit i b).hist = s.hist := rfl
@[simp] theorem State.setBufBit_arena (s : State) (i : Nat) (b : Bool) : (s.setBufBit i b).arena = s.arena := rfl
@[simp] theorem State.setBufBit_pqSlots (s : State) (i : Nat) (b : Bool) : (s.setBufBit i b).pqSlots = s.pqSlots := rfl
@[simp] theorem State.setBufBit_pqHead (s : State) (i : Nat) (b : Bool) : (s.setBufBit i b).pqHead = s.pqHead := rfl
@[simp] theorem State.setBufBit_pqTail (s : State) (i : Nat) (b : Bool) : (s.setBufBit i b).pqTail = s.pqTail := rfl
@[simp] theorem State.setBufBit_nse (s : State) (i : Nat) (b : Bool) : (s.setBufBit i b).nse = s.nse := rfl
@[simp] theorem State.setBufBit_nsTop (s : State) (i : Nat) (b : Bool) : (s.setBufBit i b).nsTop = s.nsTop := rfl
@[simp] theorem State.setBufBit_nsCap (s : State) (i : Nat) (b : Bool) : (s.setBufBit i b).nsCap = s.nsCap := rfl
@[simp] theorem State.setBufBit_bc (s : State) (i : Nat) (b : Bool) : (s.setBufBit i b).bc = s.bc := rfl
@[simp] theorem State.setBufBit_ct (s : State) (i : Nat) (b : Bool) : (s.setBufBit i b).ct = s.ct := rfl
@[simp] theorem State.setBufBit_buf (s : State) (i : Nat) (b : Bool) : (s.setBufBit i b).buf = putBit s.buf i b := rfl
@[simp] theorem State.setBufBit_wrCur (s : State) (i : Nat) (b : Bool) : (s.setBufBit i b).wrCur = s.wrCur := rfl
@[simp] theorem State.setBufBit_rdCur (s : State) (i : Nat) (b : Bool) : (s.setBufBit i b).rdCur = s.rdCur := rfl
@[simp] theorem State.setBufBit_rdEnd (s : State) (i : Nat) (b : Bool) : (s.setBufBit i b).rdEnd = s.rdEnd := rfl
@[simp] theorem State.setBufBit_params (s : State) (i : Nat) (b : Bool) : (s.setBufBit i b).params = s.params := rfl
@[simp] theorem State.setBufBit_draws (s : State) (i : Nat) (b : Bool) : (s.setBufBit i b).draws = s.draws := rfl
@[simp] theorem State.setBufBit_port (s : State) (i : Nat) (b : Bool) : (s.setBufBit i b).port = s.port := rfl
@[simp] theorem State.setBufBit_resps (s : State) (i : Nat) (b : Bool) : (s.setBufBit i b).resps = s.resps := rfl
@[simp] theorem State.setBufBit_source (s : State) (i : Nat) (b : Bool) : (s.setBufBit i b).source = s.source := rfl
@[simp] theorem State.setBufBit_taken (s : State) (i : Nat) (b : Bool) : (s.setBufBit i b).taken = s.taken := rfl
@[simp] theorem State.setBufBit_sinkPlan (s : State) (i : Nat) (b : Bool) : (s.setBufBit i b).sinkPlan = s.sinkPlan := rfl
@[simp] theorem State.setBufBit_sink (s : State) (i : Nat) (b : Bool) : (s.setBufBit i b).sink = s.sink := rfl

@[simp] theorem State.load_code (s : State) (t : List Byte) : (s.load t).code = s.code := rfl
@[simp] theorem State.load_err (s : State) (t : List Byte) : (s.load t).err = s.err := rfl
@[simp] theorem State.load_result (s : State) (t : List Byte) : (s.load t).result = s.result := rfl
@[simp] theorem State.load_hdrPerms (s : State) (t : List Byte) : (s.load t).hdrPerms = s.hdrPerms := rfl
@[simp] theorem State.load_hdrTsize (s : State) (t : List Byte) : (s.load t).hdrTsize = s.hdrTsize := rfl
@[simp] theorem State.load_hdrFsize (s : State) (t : List Byte) : (s.load t).hdrFsize = s.hdrFsize := rfl
@[simp] theorem State.load_root (s : State) (t : List Byte) : (s.load t).root = s.root := rfl
@[simp] theorem State.load_hist (s : State) (t : List Byte) : (s.load t).hist = s.hist := rfl
@[simp] theorem State.load_arena (s : State) (t : List Byte) : (s.load t).arena = s.arena := rfl
@[simp] theorem State.load_pqSlots (s : State) (t : List Byte) : (s.load t).pqSlots = s.pqSlots := rfl
@[simp] theorem State.load_pqHead (s : State) (t : List Byte) : (s.load t).pqHead = s.pqHead := rfl
@[simp] theorem State.load_pqTail (s : State) (t : List Byte) : (s.load t).pqTail = s.pqTail := rfl
@[simp] theorem State.load_nse (s : State) (t : List Byte) : (s.load t).nse = s.nse := rfl
@[simp] theorem State.load_nsTop (s : State) (t : List Byte) : (s.load t).nsTop = s.nsTop := rfl
@[simp] theorem State.load_nsCap (s : State) (t : List Byte) : (s.load t).nsCap = s.nsCap := rfl
@[simp] theorem State.load_bc (s : State) (t : List Byte) : (s.load t).bc = s.bc := rfl
@[simp] theorem State.load_ct (s : State) (t : List Byte) : (s.load t).ct = s.ct := rfl
@[simp] theorem State.load_buf (s : State) (t : List Byte) : (s.load t).buf = putBytes s.buf 0 t := rfl
@[simp] theorem State.load_wrCur (s : State) (t : List Byte) : (s.load t).wrCur = s.wrCur := rfl
@[simp] theorem State.load_rdCur (s : State) (t : List Byte) : (s.load t).rdCur = 0 := rfl
@[simp] theorem State.load_rdEnd (s : State) (t : List Byte) : (s.load t).rdEnd = 8 * t.length := rfl
@[simp] theorem State.load_params (s : State) (t : List Byte) : (s.load t).params = s.params := rfl
@[simp] theorem State.load_draws (s : State) (t : List Byte) : (s.load t).draws = s.draws := rfl
@[simp] theorem State.load_port (s : State) (t : List Byte) : (s.load t).port = s.port := rfl
@[simp] theorem State.load_resps (s : State) (t : List Byte) : (s.load t).resps = s.resps := rfl
@[simp] theorem State.load_source (s : State) (t : List Byte) : (s.load t).source = s.source := rfl
@[simp] theorem State.load_taken (s : State) (t : List Byte) : (s.load t).taken = s.taken := rfl
@[simp] theorem State.load_sinkPlan (s : State) (t : List Byte) : (s.load t).sinkPlan = s.sinkPlan := rfl
@[simp] theorem State.load_sink (s : State) (t : List Byte) : (s.load t).sink = s.sink := rfl

@[simp] theorem State.resetBlock_code (s : State) : s.resetBlock.code = .ok := rfl
@[simp] theorem State.resetBlock_err (s : State) : s.resetBlock.err = false := rfl
@[simp] theorem State.resetBlock_result (s : State) : s.resetBlock.result = 0 := rfl
@[simp] theorem State.resetBlock_hdrPerms (s : State) : s.resetBlock.hdrPerms = 0 := rfl
@[simp] theorem State.resetBlock_hdrTsize (s : State) : s.resetBlock.hdrTsize = 0 := rfl
@[simp] theorem State.resetBlock_hdrFsize (s : State) : s.resetBlock.hdrFsize = 0 := rfl
@[simp] theorem State.resetBlock_root (s : State) : s.resetBlock.root = nullNode := rfl
@[simp] theorem State.resetBlock_pqHead (s : State) : s.resetBlock.pqHead = 0 := rfl
@[simp] theorem State.resetBlock_pqTail (s : State) : s.resetBlock.pqTail = 0 := rfl
@[simp] theorem State.resetBlock_nsTop (s : State) : s.resetBlock.nsTop = 0 := rfl
@[simp] theorem State.resetBlock_nsCap (s : State) : s.resetBlock.nsCap = 0 := rfl
@[simp] theorem State.resetBlock_bc (s : State) : s.resetBlock.bc = BitCode.empty := rfl
@[simp] theorem State.resetBlock_buf (s : State) : s.resetBlock.buf = s.params.clip (Config.freeBuf s.draws) := rfl
@[simp] theorem State.resetBlock_wrCur (s : State) : s.resetBlock.wrCur = 0 := rfl
@[simp] theorem State.resetBlock_rdCur (s : State) : s.resetBlock.rdCur = 0 := rfl
@[simp] theorem State.resetBlock_rdEnd (s : State) : s.resetBlock.rdEnd = 0 := rfl
@[simp] theorem State.resetBlock_params (s : State) : s.resetBlock.params = s.params := rfl
@[simp] theorem State.resetBlock_draws (s : State) : s.resetBlock.draws = s.draws + 1 := rfl
@[simp] theorem State.resetBlock_port (s : State) : s.resetBlock.port = s.port := rfl
@[simp] theorem State.resetBlock_resps (s : State) : s.resetBlock.resps = s.resps := rfl
@[simp] theorem State.resetBlock_source (s : State) : s.resetBlock.source = s.source := rfl
@[simp] theorem State.resetBlock_taken (s : State) : s.resetBlock.taken = s.taken := rfl
@[simp] theorem State.resetBlock_sinkPlan (s : State) : s.resetBlock.sinkPlan = s.sinkPlan := rfl
@[simp] theorem State.resetBlock_sink (s : State) : s.resetBlock.sink = s.sink := rfl

@[simp] theorem State.fail_eq_respond (s : State) (c : Code) : s.fail c = s.respond c 0 := rfl

/-- The views that depend on one store alone are the same after an update of another. -/
@[simp] theorem State.slot?_respond (s : State) (c : Code) (v : Value) (n : NodeIx) : (s.respond c v).slot? n = s.slot? n := rfl
@[simp] theorem State.slot?_raise (s : State) (c : Code) (v : Value) (n : NodeIx) : (s.raise c v).slot? n = s.slot? n := rfl
@[simp] theorem State.slot?_reply (s : State) (c : Code) (v : Value) (n : NodeIx) : (s.reply c v).slot? n = s.slot? n := rfl

end Sys2Proof.Machine
end

