-- ==== Sys2Proof/Laws/Ops.lean ====
section
/-! SUPPORT. For each shared operation, what it can do, said once. -/

namespace Sys2Proof.Machine

/-! ## Bits -/

/-- Writing a bit and reading one. -/
theorem putBit_getLsbD {w : Nat} (x : BitVec w) (i j : Nat) (b : Bool) (hi : i < w) :
    (putBit x i b).getLsbD j = if j = i then b else x.getLsbD j := by
  have one : (1#w <<< i).getLsbD j = decide (j = i) := by
    rw [BitVec.getLsbD_shiftLeft, BitVec.getLsbD_one]
    by_cases h : j = i
    · have : 0 < w := by omega
      simp [h, hi, this]
    · by_cases h' : j < i
      · simp [h, h']
      · have : ¬ j - i = 0 := by omega
        simp [h, this]
  by_cases hj : j < w
  · unfold putBit
    cases b
    · rw [if_neg (by decide), BitVec.getLsbD_and, BitVec.getLsbD_not, one]
      by_cases h : j = i <;> simp [h, hj, hi]
    · rw [if_pos rfl, BitVec.getLsbD_or, one]
      by_cases h : j = i <;> simp [h]
  · have h : j ≠ i := by omega
    rw [if_neg h, BitVec.getLsbD_of_ge _ _ (Nat.le_of_not_lt hj), BitVec.getLsbD_of_ge _ _ (Nat.le_of_not_lt hj)]

/-- Writing a byte and reading a bit. -/
theorem putByte_getLsbD (buf : BitVec 65536) (j i : Nat) (b : Byte) (hj : j < 8192) :
    (putByte buf j b).getLsbD i = if i / 8 = j then b.getLsbD (i % 8) else buf.getLsbD i := by
  have hff : ∀ k, (0xFF : BitVec 65536).getLsbD k = decide (k < 8) := by
    intro k
    have : (0xFF : BitVec 65536) = (BitVec.allOnes 8).setWidth 65536 := by decide +kernel
    rw [this, BitVec.getLsbD_setWidth, BitVec.getLsbD_allOnes]
    by_cases hk : k < 8
    · have : k < 65536 := by omega
      simp [hk, this]
    · simp [hk]
  by_cases hi : i < 65536
  · unfold putByte
    rw [BitVec.getLsbD_or, BitVec.getLsbD_and, BitVec.getLsbD_not, BitVec.getLsbD_shiftLeft, BitVec.getLsbD_shiftLeft, hff,
      BitVec.getLsbD_setWidth]
    have l : i - 8 * j < 65536 := by omega
    simp only [hi, l, decide_true, Bool.true_and]
    by_cases h8 : i < 8 * j
    · have : i / 8 ≠ j := by omega
      simp only [h8, this, decide_true, if_false, Bool.not_true, Bool.false_and, Bool.not_false, Bool.and_true, Bool.or_false]
    · by_cases hin : i / 8 = j
      · have e : i - 8 * j = i % 8 := by omega
        have l : i % 8 < 8 := Nat.mod_lt _ (by decide)
        simp only [h8, hin, e, l, decide_true, decide_false, if_true, Bool.not_true, Bool.not_false, Bool.true_and,
          Bool.and_false, Bool.false_or]
      · have g : ¬ (i - 8 * j < 8) := by omega
        have z : b.getLsbD (i - 8 * j) = false := BitVec.getLsbD_of_ge _ _ (by omega)
        simp only [h8, hin, g, z, decide_false, if_false, Bool.not_false, Bool.true_and, Bool.and_true, Bool.or_false]
  · have : i / 8 ≠ j := by omega
    rw [if_neg this, BitVec.getLsbD_of_ge _ _ (Nat.le_of_not_lt hi), BitVec.getLsbD_of_ge _ _ (Nat.le_of_not_lt hi)]

/-- A buffer image is below 2^n exactly when no bit at or above n is set. -/
theorem buf_lt_iff {w : Nat} (x : BitVec w) (n : Nat) :
    x.toNat < 2 ^ n ↔ ∀ i, n ≤ i → x.getLsbD i = false := by
  constructor
  · intro h i hi
    exact Nat.testBit_lt_two_pow (Nat.lt_of_lt_of_le h (Nat.pow_le_pow_right (by decide) hi))
  · intro h
    exact Nat.lt_pow_two_of_testBit _ fun i hi => h i hi

/-- The bits of a buffer image with bytes stored from byte j on. -/
theorem putBytes_getLsbD (t : List Byte) (buf : BitVec 65536) (j i : Nat) (h : j + t.length ≤ 8192) :
    (putBytes buf j t).getLsbD i =
      if j ≤ i / 8 ∧ i / 8 < j + t.length then (t.getD (i / 8 - j) 0).getLsbD (i % 8) else buf.getLsbD i := by
  induction t generalizing buf j with
  | nil =>
    have : ¬ (j ≤ i / 8 ∧ i / 8 < j + 0) := by omega
    simp only [putBytes, List.length_nil, this, if_false]
  | cons b t ih =>
    simp only [List.length_cons] at h ⊢
    rw [putBytes, ih _ _ (by omega), putByte_getLsbD _ _ _ _ (by omega)]
    by_cases e : i / 8 = j
    · have h1 : ¬ (j + 1 ≤ i / 8 ∧ i / 8 < j + 1 + t.length) := by omega
      have h2 : j ≤ i / 8 ∧ i / 8 < j + (t.length + 1) := by omega
      rw [if_neg h1, if_pos e, if_pos h2, e]; simp
    · by_cases g : j + 1 ≤ i / 8 ∧ i / 8 < j + 1 + t.length
      · have h2 : j ≤ i / 8 ∧ i / 8 < j + (t.length + 1) := by omega
        have h3 : i / 8 - j = (i / 8 - (j + 1)) + 1 := by omega
        rw [if_pos g, if_pos h2, h3, List.getD_cons_succ]
      · have h2 : ¬ (j ≤ i / 8 ∧ i / 8 < j + (t.length + 1)) := by omega
        rw [if_neg g, if_neg e, if_neg h2]

/-! ## The buffer keeps its canonical form -/

theorem Params.blockBytes_pos (p : Params) : 0 < p.blockBytes := Nat.succ_pos _

theorem Params.blockBytes_le (p : Params) : p.blockBytes ≤ 8192 := p.blockBytesPred.isLt

theorem State.bufBits_eq (s : State) : s.bufBits = 8 * s.params.blockBytes := rfl

theorem State.bufBits_le (s : State) : s.bufBits ≤ 65536 := by
  have := Params.blockBytes_le s.params
  rw [State.bufBits_eq]; omega

/-- Storing a bit inside the buffer keeps the form. -/
theorem setBufBit_wf (s : State) (i : Nat) (b : Bool) (hi : i < s.bufBits) (h : Memory.wf s) :
    Memory.wf (s.setBufBit i b) := by
  have hw := s.bufBits_le
  refine (buf_lt_iff _ _).2 fun j hj => ?_
  have hj' : s.bufBits ≤ j := hj
  rw [State.setBufBit_buf, putBit_getLsbD _ _ _ _ (by omega), if_neg (by omega)]
  exact (buf_lt_iff _ _).1 h j hj'

/-- A refill of at most BLOCK_BYTES bytes keeps the form. -/
theorem load_wf (s : State) (t : List Byte) (ht : t.length ≤ s.params.blockBytes) (h : Memory.wf s) :
    Memory.wf (s.load t) := by
  have hb := Params.blockBytes_le s.params
  refine (buf_lt_iff _ _).2 fun j hj => ?_
  have hj' : 8 * s.params.blockBytes ≤ j := hj
  rw [State.load_buf, putBytes_getLsbD _ _ _ _ (by omega), if_neg (by omega)]
  exact (buf_lt_iff _ _).1 h j hj'

/-- FLUSH's padding inside the buffer keeps the form, and changes only the buffer and the count of draws. -/
theorem pad_spec (count : Nat) (s : State) (i : Nat) (hi : i + count ≤ s.bufBits) (h : Memory.wf s) :
    Memory.wf (s.pad i count) ∧ s.pad i count = { s with buf := (s.pad i count).buf, draws := s.draws + count } := by
  induction count generalizing s i with
  | zero => exact ⟨h, rfl⟩
  | succ count ih =>
    have hw : Memory.wf (s.setBufBit i (Config.freeBit s.draws)) := setBufBit_wf s i _ (by omega) h
    obtain ⟨h1, h2⟩ := ih { s.setBufBit i (Config.freeBit s.draws) with draws := s.draws + 1 } (i + 1)
      (by change i + 1 + count ≤ s.bufBits; omega) hw
    refine ⟨h1, ?_⟩
    rw [show s.draws + (count + 1) = s.draws + 1 + count by omega]
    exact h2

/-- The bits a reset leaves are inside the buffer. -/
theorem clip_lt (p : Params) (b : BitVec 65536) : (p.clip b).toNat < 2 ^ p.bufBits := by
  refine (buf_lt_iff _ _).2 fun i hi => ?_
  simp [Params.clip, BitVec.getLsbD_setWidth, BitVec.getLsbD_of_ge _ _ hi]

/-- Reset leaves the form. -/
theorem resetBlock_wf (s : State) : Memory.wf s.resetBlock := clip_lt s.params _

theorem reset_wf : Memory.wf State.reset := clip_lt Config.params _

/-! ## Vectors of entries -/

theorem histAt_setHist (s : State) (x y : Sym) (v : Value) :
    (s.setHist x v).histAt y = if y = x then v else s.histAt y := by
  unfold State.histAt State.setHist
  by_cases h : y = x
  · subst h; simp
  · have : x.toNat ≠ y.toNat := fun e => h (BitVec.eq_of_toNat_eq e.symm)
    simp [h, this]

theorem ctAt_setCt (s : State) (x y : Sym) (e : CtEntry) :
    (s.setCt x e).ctAt y = if y = x then e else s.ctAt y := by
  unfold State.ctAt State.setCt
  by_cases h : y = x
  · subst h; simp
  · have : x.toNat ≠ y.toNat := fun e => h (BitVec.eq_of_toNat_eq e.symm)
    simp [h, this]

/-- Storing a slot changes only the arena. -/
theorem setNode_eq (s : State) (n : NodeIx) (nd : Node) :
    s.setNode n nd = { s with arena := (s.setNode n nd).arena } := by
  unfold State.setNode; split <;> rfl

/-- Storing a slot and reading one. -/
theorem slot?_setNode (s : State) (n m : NodeIx) (nd : Node) :
    (s.setNode n nd).slot? m = if m = n ∧ n.toNat < nodeCap then some nd else s.slot? m := by
  unfold State.setNode State.slot?
  by_cases hn : n.toNat < nodeCap
  · by_cases hm : m = n
    · subst hm; simp [hn]
    · have : n.toNat ≠ m.toNat := fun e => hm (BitVec.eq_of_toNat_eq e.symm)
      simp [hn, hm, this]
  · simp [hn]

/-- A valid node has a slot. -/
theorem valid_iff (s : State) (n : NodeIx) : s.valid n = true ↔ ∃ nd, s.slot? n = some nd ∧ nd.valid = true := by
  unfold State.valid; cases s.slot? n <;> simp

theorem slot?_isSome_iff (s : State) (n : NodeIx) : (s.slot? n).isSome = true ↔ n.toNat < nodeCap := by
  unfold State.slot?; split <;> simp_all

/-- Making a leaf changes only the arena. -/
theorem makeLeaf_eq (s : State) (x : Sym) (f : Value) :
    (s.makeLeaf x f).2 = { s with arena := (s.makeLeaf x f).2.arena } := setNode_eq _ _ _

/-- Joining changes only the arena. -/
theorem join_eq (s : State) (l r : NodeIx) : (s.join l r).2 = { s with arena := (s.join l r).2.arena } := by
  simp only [State.join, State.adopt]
  rw [setNode_eq, setNode_eq, setNode_eq]

/-- Freeing a node changes only the arena and ROOT. -/
theorem freeNode_eq (s : State) (n : NodeIx) :
    s.freeNode n = { s with arena := (s.freeNode n).arena, root := if s.root = n then nullNode else s.root } := by
  have h := setNode_eq s n { s.node n with valid := false }
  have hr : (s.setNode n { s.node n with valid := false }).root = s.root := by rw [h]
  unfold State.freeNode
  simp only [hr]
  split <;> rw [h]

/-- alloc answers the lowest free slot when there is one. -/
theorem alloc_lowestFree {s : State} (h : 0 < s.freeSlots) : s.LowestFree s.alloc := by
  unfold State.freeSlots at h
  rw [List.countP_pos_iff] at h
  have hlen : s.arena.toList.length = nodeCap := by simp
  have hlt : s.arena.toList.findIdx (fun nd => !nd.valid) < nodeCap := by
    exact Nat.lt_of_lt_of_eq (List.findIdx_lt_length.2 h) hlen
  have ha : s.alloc.toNat = s.arena.toList.findIdx (fun nd => !nd.valid) := by
    unfold State.alloc
    simp only [hlt, if_true, BitVec.toNat_ofNat]
    exact Nat.mod_eq_of_lt (Nat.lt_trans hlt (by decide))
  refine ⟨ha ▸ hlt, ?_, fun m hm => ?_⟩
  · have hk := List.findIdx_getElem (xs := s.arena.toList) (p := fun nd => !nd.valid) (w := by rw [hlen]; exact hlt)
    simp only [Vector.getElem_toList, Bool.not_eq_true'] at hk
    simp only [State.valid, State.slot?, ha, hlt, dite_true, Option.any_some, hk]
  · rw [ha] at hm
    have hk := List.not_of_lt_findIdx hm
    have hn : m.toNat < nodeCap := Nat.lt_trans hm hlt
    simp only [Vector.getElem_toList, Bool.not_eq_false'] at hk
    simp only [State.valid, State.slot?, hn, dite_true, Option.any_some, hk]

/-! ## Queue and stack -/

/-- What a successful enqueue changes. -/
theorem pqEnqueue_eq {s t : State} {n : NodeIx} (h : s.pqEnqueue n = some t) :
    s.pqSize ≠ pqN ∧ t = { s with pqSlots := t.pqSlots, pqTail := s.pqTail + 1 } := by
  unfold State.pqEnqueue at h
  split at h
  · cases h
  · rename_i hne
    exact ⟨hne, by cases h; rfl⟩

theorem pqEnqueue_none {s : State} {n : NodeIx} : s.pqEnqueue n = none ↔ s.pqSize = pqN := by
  unfold State.pqEnqueue; split <;> simp_all

/-- What a successful dequeue answers and changes. -/
theorem pqDequeue_eq {s t : State} {n : NodeIx} (h : s.pqDequeue = some (n, t)) :
    s.pqHead ≠ s.pqTail ∧ n = s.pqSlots[s.pqHead].node ∧ t = { s with pqHead := s.pqHead + 1 } := by
  unfold State.pqDequeue at h
  split at h
  · cases h
  · rename_i hne
    cases h
    exact ⟨hne, rfl, rfl⟩

/-- What a successful push changes. -/
theorem nsPush_eq {s t : State} {n : NodeIx} (h : s.nsPush n = some t) :
    s.nsTop ≠ s.nsCap ∧ t = { s with nse := s.nse.setIfInBounds s.nsTop n, nsTop := s.nsTop + 1 } := by
  unfold State.nsPush at h
  split at h
  · cases h
  · rename_i hne
    exact ⟨hne, by cases h; rfl⟩

/-- What a successful pop changes. -/
theorem nsPop_eq {s t : State} {n : NodeIx} (h : s.nsPop = some (n, t)) :
    s.nsTop ≠ 0 ∧ n = s.nse.toList.getD (s.nsTop - 1) nullNode ∧ t = { s with nsTop := s.nsTop - 1 } := by
  unfold State.nsPop at h
  split at h
  · cases h
  · rename_i hne
    cases h
    exact ⟨hne, rfl, rfl⟩

/-! ## Channels -/

theorem takeBytes_length {n : Nat} {src rest : List SourceEvent} {t : List Byte}
    (h : takeBytes n src = some (t, rest)) : t.length ≤ n := by
  induction n generalizing src rest t with
  | zero => cases src <;> simp_all [takeBytes]
  | succ n ih =>
    cases src with
    | nil => simp_all [takeBytes]
    | cons e src =>
      cases e with
      | byte b =>
        simp only [takeBytes] at h
        split at h
        · rename_i t' rest' h'
          cases h
          have := ih h'
          simp only [List.length_cons]; omega
        · cases h
      | zeroTransfer => simp only [takeBytes] at h; cases h; simp
      | never => simp only [takeBytes] at h; cases h

/-- What a SourceRead changes. -/
theorem sourceRead_eq {s s' : State} {n : Nat} {t : List Byte} (h : s.sourceRead n = some (t, s')) :
    t.length ≤ n ∧ s' = { s with source := s'.source, taken := s.taken + t.length } := by
  unfold State.sourceRead at h
  split at h
  · rename_i t' rest h'
    cases h
    exact ⟨takeBytes_length h', rfl⟩
  · cases h

/-- What a SinkWrite changes. -/
theorem sinkWrite_eq {s s' : State} {bs : List Byte} {w : Nat} (h : s.sinkWrite bs = some (w, s')) :
    s' = { s with sinkPlan := s'.sinkPlan, sink := s.sink ++ bs.take w } := by
  unfold State.sinkWrite at h
  split at h
  · cases h; rfl
  · cases h

/-- A source that supplies the bytes asked for. -/
theorem takeBytes_map (t : List Byte) (rest : List SourceEvent) :
    takeBytes t.length (t.map .byte ++ rest) = some (t, rest) := by
  induction t with
  | nil => cases rest <;> rfl
  | cons b t ih => simp only [List.length_cons, List.map_cons, List.cons_append, takeBytes, ih]

/-- A sink that accepts the bytes offered. -/
theorem acceptBytes_accept (bs : List Byte) (plan : List SinkEvent) (h : ∀ e ∈ plan.take bs.length, e = .accept) :
    acceptBytes bs plan = some (bs.length, plan.drop bs.length) := by
  induction bs generalizing plan with
  | nil => cases plan <;> rfl
  | cons b bs ih =>
    cases plan with
    | nil => rfl
    | cons e plan =>
      obtain rfl : e = .accept := h e (by simp)
      have h' := ih plan fun e he => h e (by simp [he])
      simp only [acceptBytes, h', List.length_cons, List.drop_succ_cons]

/-- A sink that refuses the byte after w accepted ones. -/
theorem acceptBytes_refused (bs : List Byte) (w : Nat) (plan : List SinkEvent) (h : w < bs.length) :
    acceptBytes bs (List.replicate w .accept ++ .zeroTransfer :: plan) = some (w, plan) := by
  induction w generalizing bs with
  | zero =>
    cases bs with
    | nil => cases h
    | cons b bs => rfl
  | succ w ih =>
    cases bs with
    | nil => cases h
    | cons b bs =>
      have h' := ih bs (Nat.lt_of_succ_lt_succ h)
      simp only [List.replicate_succ, List.cons_append, acceptBytes, h']

/-- A sink whose plan has ended accepts everything. -/
theorem acceptBytes_nil (bs : List Byte) : acceptBytes bs [] = some (bs.length, []) := by
  cases bs <;> rfl

theorem sinkWrite_open {s : State} (h : s.sinkPlan = []) (bs : List Byte) :
    s.sinkWrite bs = some (bs.length, { s with sink := s.sink ++ bs }) := by
  unfold State.sinkWrite
  rw [h, acceptBytes_nil]
  simp [← h]

/-! ## The bit writer and reader -/

/-- What a bit written without an error changes. -/
theorem writeBit_done {s t : State} {b : Bool} (h : s.writeBit b = .done t) :
    t.wrCur = (if s.wrCur + 1 = s.bufBits then 0 else s.wrCur + 1) ∧
    t = { s with buf := putBit s.buf s.wrCur b, wrCur := t.wrCur, sinkPlan := t.sinkPlan, sink := t.sink } := by
  unfold State.writeBit at h
  change (if s.wrCur + 1 = s.bufBits then _ else _) = _ at h
  by_cases hf : s.wrCur + 1 = s.bufBits
  · rw [if_pos hf] at h
    split at h
    · rename_i w s₂ hw
      split at h
      · cases h
      · cases h
        rw [sinkWrite_eq hw]
        exact ⟨by rw [if_pos hf], rfl⟩
    · cases h
  · rw [if_neg hf] at h
    cases h
    exact ⟨by rw [if_neg hf], rfl⟩

/-- Writing a bit inside the buffer keeps the form. -/
theorem writeBit_wf {s t : State} {b : Bool} (hi : s.wrCur < s.bufBits) (h : Memory.wf s) (hd : s.writeBit b = .done t) :
    Memory.wf t := by
  rw [(writeBit_done hd).2]
  exact setBufBit_wf s s.wrCur b hi h

/-- What a bit whose block the sink did not take whole changes: WR_CUR is 0 and E_SINK is raised. -/
theorem writeBit_raised {s t : State} {b : Bool} (h : s.writeBit b = .raised t) :
    ∃ w plan sink, w < s.params.blockBytes ∧
      t = { s with buf := putBit s.buf s.wrCur b, wrCur := 0, sinkPlan := plan, sink := sink }.raise .eSink (value w) := by
  unfold State.writeBit at h
  change (if s.wrCur + 1 = s.bufBits then _ else _) = _ at h
  by_cases hf : s.wrCur + 1 = s.bufBits
  · rw [if_pos hf] at h
    split at h
    · rename_i w s₂ hw
      split at h
      · rename_i hlt
        cases h
        refine ⟨w, s₂.sinkPlan, s₂.sink, hlt, ?_⟩
        conv => lhs; rw [sinkWrite_eq hw]
        rw [sinkWrite_eq hw]
        rfl
      · cases h
    · cases h
  · rw [if_neg hf] at h
    cases h

/-- What a bit read changes. -/
theorem readBit_bit {s t : State} {b : Bool} (h : s.readBit = .bit b t) :
    t = { s with buf := t.buf, rdCur := t.rdCur, rdEnd := t.rdEnd, source := t.source, taken := t.taken } := by
  unfold State.readBit at h
  split at h
  · split at h
    · cases h
    · rename_i hr
      cases h
      rw [(sourceRead_eq hr).2]
      rfl
    · cases h
  · cases h
    rfl

/-- An exhausted read has used up one transfer of zero bytes at most. -/
theorem readBit_exhausted {s t : State} (h : s.readBit = .exhausted t) :
    s.rdCur = s.rdEnd ∧ t = { s with source := t.source } := by
  unfold State.readBit at h
  split at h
  · rename_i he
    split at h
    · rename_i hr
      cases h
      exact ⟨he, (sourceRead_eq hr).2⟩
    · cases h
    · cases h
  · cases h

/-! ## Dispatch checks -/

/-- Outside the error halt a command runs. -/
theorem unlessHalted_running {s : State} (h : s.err = false) (k : Result) : s.unlessHalted k = k := by
  simp [State.unlessHalted, h]

/-- In the error halt it is refused. -/
theorem unlessHalted_halted {s : State} (h : s.err = true) (k : Result) :
    s.unlessHalted k = .next (s.reply .halted 0) := by
  simp [State.unlessHalted, h]

theorem withNode_valid {s : State} {n : NodeIx} (h : s.valid n = true) (k : Result) : s.withNode n k = k := by
  simp [State.withNode, h]

theorem withNode_invalid {s : State} {n : NodeIx} (h : s.valid n = false) (k : Result) :
    s.withNode n k = .next (s.raise .eOperand (n.setWidth 64)) := by
  simp [State.withNode, h]

theorem withTree_some {s : State} {n : NodeIx} {t : NodeTree} (h : s.treeAt n = some t) (k : NodeTree → Result) :
    s.withTree n k = k t := by
  simp [State.withTree, h]

end Sys2Proof.Machine
end

