-- ==== Sys2Proof/Laws/PerInstr.lean ====
section
/-! SUPPORT. Statements made per instruction. Family Encoding: the opcode an instruction is encoded with is none of the 208
undefined ones (spec/30_encoding.md R137). -/

namespace Sys2Proof.Laws.Encoding

open Sys2Proof Sys2Proof.Machine

/-- The encoder never answers an undefined opcode. -/
def Statement (i : Instr) : Prop := undefinedOpcode (encode i).op.toNat = false

/-- The statement from the opcode alone. -/
theorem of_opcode {i : Instr} {op : BitVec 8} (h : (encode i).op = op) (hop : undefinedOpcode op.toNat = false) :
    Statement i := by
  rw [Statement, h, hop]

theorem nop : Statement (.nop) :=
  of_opcode (Command.make_op 0x00 _ _ _) rfl

theorem reset : Statement (.reset) :=
  of_opcode (Command.make_op 0x01 _ _ _) rfl

theorem regRead (r : BitVec 16) : Statement (.regRead r) :=
  of_opcode (Command.make_op 0x02 _ _ _) rfl

theorem regWrite (r : BitVec 16) (v : BitVec 64) : Statement (.regWrite r v) :=
  of_opcode (Command.make_op 0x03 _ _ _) rfl

theorem bcClear : Statement (.bcClear) :=
  of_opcode (Command.make_op 0x10 _ _ _) rfl

theorem bcPush (bit : Bool) : Statement (.bcPush bit) :=
  of_opcode (Command.make_op 0x11 _ _ _) rfl

theorem bcPop : Statement (.bcPop) :=
  of_opcode (Command.make_op 0x12 _ _ _) rfl

theorem bcSize : Statement (.bcSize) :=
  of_opcode (Command.make_op 0x13 _ _ _) rfl

theorem bcIsEmpty : Statement (.bcIsEmpty) :=
  of_opcode (Command.make_op 0x14 _ _ _) rfl

theorem bcIsFull : Statement (.bcIsFull) :=
  of_opcode (Command.make_op 0x15 _ _ _) rfl

theorem bcRender : Statement (.bcRender) :=
  of_opcode (Command.make_op 0x16 _ _ _) rfl

theorem pqClear : Statement (.pqClear) :=
  of_opcode (Command.make_op 0x20 _ _ _) rfl

theorem pqEnq (n : NodeIx) : Statement (.pqEnq n) :=
  of_opcode (Command.make_op 0x21 _ _ _) rfl

theorem pqDeq : Statement (.pqDeq) :=
  of_opcode (Command.make_op 0x22 _ _ _) rfl

theorem pqSize : Statement (.pqSize) :=
  of_opcode (Command.make_op 0x23 _ _ _) rfl

theorem pqIsEmpty : Statement (.pqIsEmpty) :=
  of_opcode (Command.make_op 0x24 _ _ _) rfl

theorem pqIsFull : Statement (.pqIsFull) :=
  of_opcode (Command.make_op 0x25 _ _ _) rfl

theorem nsInit (c : BitVec 16) : Statement (.nsInit c) :=
  of_opcode (Command.make_op 0x30 _ _ _) rfl

theorem nsPush (n : NodeIx) : Statement (.nsPush n) :=
  of_opcode (Command.make_op 0x31 _ _ _) rfl

theorem nsPop : Statement (.nsPop) :=
  of_opcode (Command.make_op 0x32 _ _ _) rfl

theorem nsSize : Statement (.nsSize) :=
  of_opcode (Command.make_op 0x33 _ _ _) rfl

theorem nodeLeaf (x : Sym) (f : BitVec 64) : Statement (.nodeLeaf x f) :=
  of_opcode (Command.make_op 0x40 _ _ _) rfl

theorem nodeJoin (l r : NodeIx) : Statement (.nodeJoin l r) :=
  of_opcode (Command.make_op 0x41 _ _ _) rfl

theorem nodeRead (f : BitVec 8) (n : NodeIx) : Statement (.nodeRead f n) :=
  of_opcode (Command.make_op 0x42 _ _ _) rfl

theorem release (n : NodeIx) : Statement (.release n) :=
  of_opcode (Command.make_op 0x43 _ _ _) rfl

theorem histClear : Statement (.histClear) :=
  of_opcode (Command.make_op 0x50 _ _ _) rfl

theorem histSet (x : Sym) (c : BitVec 64) : Statement (.histSet x c) :=
  of_opcode (Command.make_op 0x51 _ _ _) rfl

theorem histAdd (x : Sym) (c : BitVec 64) : Statement (.histAdd x c) :=
  of_opcode (Command.make_op 0x52 _ _ _) rfl

theorem histGet (x : Sym) : Statement (.histGet x) :=
  of_opcode (Command.make_op 0x53 _ _ _) rfl

theorem build : Statement (.build) :=
  of_opcode (Command.make_op 0x60 _ _ _) rfl

theorem codeTable : Statement (.codeTable) :=
  of_opcode (Command.make_op 0x61 _ _ _) rfl

theorem serialize : Statement (.serialize) :=
  of_opcode (Command.make_op 0x62 _ _ _) rfl

theorem deserialize : Statement (.deserialize) :=
  of_opcode (Command.make_op 0x63 _ _ _) rfl

theorem ctLen (x : Sym) : Statement (.ctLen x) :=
  of_opcode (Command.make_op 0x64 _ _ _) rfl

theorem ctBit (x : Sym) (k : BitVec 16) : Statement (.ctBit x k) :=
  of_opcode (Command.make_op 0x65 _ _ _) rfl

theorem ctLoadBc (x : Sym) : Statement (.ctLoadBc x) :=
  of_opcode (Command.make_op 0x66 _ _ _) rfl

theorem bsReset : Statement (.bsReset) :=
  of_opcode (Command.make_op 0x70 _ _ _) rfl

theorem setBit (k : BitVec 16) : Statement (.setBit k) :=
  of_opcode (Command.make_op 0x71 _ _ _) rfl

theorem clrBit (k : BitVec 16) : Statement (.clrBit k) :=
  of_opcode (Command.make_op 0x72 _ _ _) rfl

theorem getBit (k : BitVec 16) : Statement (.getBit k) :=
  of_opcode (Command.make_op 0x73 _ _ _) rfl

theorem readBit : Statement (.readBit) :=
  of_opcode (Command.make_op 0x74 _ _ _) rfl

theorem writeCode (x : Sym) : Statement (.writeCode x) :=
  of_opcode (Command.make_op 0x75 _ _ _) rfl

theorem writeBc : Statement (.writeBc) :=
  of_opcode (Command.make_op 0x76 _ _ _) rfl

theorem flush : Statement (.flush) :=
  of_opcode (Command.make_op 0x77 _ _ _) rfl

theorem decSym : Statement (.decSym) :=
  of_opcode (Command.make_op 0x78 _ _ _) rfl

theorem decodeAll : Statement (.decodeAll) :=
  of_opcode (Command.make_op 0x79 _ _ _) rfl

theorem hdrWrite : Statement (.hdrWrite) :=
  of_opcode (Command.make_op 0x80 _ _ _) rfl

theorem hdrRead : Statement (.hdrRead) :=
  of_opcode (Command.make_op 0x81 _ _ _) rfl

end Sys2Proof.Laws.Encoding
end

