-- ==== Sys2Proof/Tests/Slice0.lean ====
section
/-! SUPPORT. Tests. Expected values are taken from spec/95_test_vectors.md (the vector is named in the docstring) and from the
field table of spec/30_encoding.md. The theorems named test_hyp_… show that the hypotheses of an obligation can be met, clause by
clause. -/

namespace Sys2Proof.Tests

open Sys2Proof Sys2Proof.Machine

-- One theorem after the other: the kernel evaluations below would otherwise each hold a thread while they wait.
set_option Elab.async false

/-! ## Helpers -/

/-- The reset state of a block with BLOCK_BYTES = 1 and MAGIC = 0x12345678, the buffer all zero. -/
def base : State := { State.reset with params := ⟨0, 0x12345678⟩, buf := 0 }

/-- A live leaf without a parent. -/
def leaf (x : Sym) (f : Value) : Node := ⟨true, x, f, nullNode, nullNode, false⟩

/-- T-ND-1: n0 = leaf 'a' 3, n1 = leaf 'b' 1. -/
def twoLeaves : State := (base.setNode 0 (leaf 0x61 3)).setNode 1 (leaf 0x62 1)

/-- T-ND-2 with ROOT = 2: n2 = join(n1, n0). -/
def oneTree : State :=
  { ((base.setNode 0 { leaf 0x61 3 with hasParent := true }).setNode 1 { leaf 0x62 1 with hasParent := true }).setNode 2
      ⟨true, 0x24, 4, 1, 0, false⟩ with root := 2 }

/-- ROOT names a single leaf 'a' in slot 0 (T-BS-14). -/
def leafRoot : State := { base.setNode 0 (leaf 0x61 0) with root := 0 }

/-- Every slot is live. -/
def fullArena : State := { base with arena := Vector.replicate nodeCap (leaf 0x41 1) }

/-- The tree of T-BUILD-1 ("aaab") in slots 0 to 6, ROOT = 6. -/
def aaab : State :=
  let nodes : List Node := [⟨true, 0x00, 1, nullNode, nullNode, true⟩, ⟨true, 0x61, 3, nullNode, nullNode, true⟩,
    ⟨true, 0x62, 1, nullNode, nullNode, true⟩, ⟨true, 0xFF, 1, nullNode, nullNode, true⟩, ⟨true, 0x24, 2, 0, 2, true⟩,
    ⟨true, 0x24, 3, 3, 4, true⟩, ⟨true, 0x24, 6, 1, 5, false⟩]
  { (nodes.zipIdx.foldl (fun s p => s.setNode (BitVec.ofNat 16 p.2) p.1) base) with root := 6 }

/-- The histogram of T-BUILD-4: three equal counts. -/
def threeHist : State := ((base.setHist 0x41 1).setHist 0x42 1).setHist 0x43 1

/-- The block halted by T-CTL-11. -/
def halted : State := { base with code := .eIllegal, err := true, result := 0xFF }

/-- The BitCode "110" (T-BC-1). -/
def code110 : BitCode := ⟨3, 3⟩

/-- BC = "110" on the base state. -/
def bc110 : State := { base with bc := code110 }

/-- 'a' (0x61) has the code "110". -/
def ct110 : State := base.setCt 0x61 ⟨true, code110⟩

/-- A queue of two entries, n1 with key 2 before n0 with key 5. -/
def queueTwo : State :=
  { (base.setNode 0 (leaf 0x41 5)).setNode 1 (leaf 0x41 2) with
    pqSlots := ((Vector.replicate 257 ⟨0, 0⟩).set 0 ⟨1, 2⟩).set 1 ⟨0, 5⟩, pqTail := 2 }

/-- The same state with 256 entries in the queue. -/
def queueFull : State := { queueTwo with pqTail := 256 }

/-- A node stack of capacity 2 with the entries n0, n1 (T-NS-1). -/
def stackTwo : State := { twoLeaves with nse := (Vector.replicate nsMax 0).set 1 1, nsCap := 2, nsTop := 2 }

/-- The source supplies these bytes and then ends. -/
def withSource (s : State) (bs : List Byte) : State := { s with source := bs.map .byte }

/-- The next command on the port. -/
def withCommand (s : State) (cmd : BitVec 32) (d : BitVec 64) : State := { s with port := [.command ⟨cmd, d⟩] }

/-- The outcome is a next state with the property. -/
def next (r : Result) (p : State → Bool) : Bool :=
  match r with
  | .next t => p t
  | .fault _ => false
  | .refused _ => false

/-- The response the command returns. -/
def answers (r : Result) (code : Code) (v : Nat) : Bool := next r fun t => t.resps.getLast? == some ⟨code, value v⟩

/-- The bytes a SourceRead obtains. -/
def reads (s : State) (n : Nat) : Option (List Byte) := (s.sourceRead n).map (·.1)

/-- The count a SinkWrite accepts. -/
def accepts (s : State) (bs : List Byte) : Option Nat := (s.sinkWrite bs).map (·.1)

/-- After exactly these bits the reader finds the source exhausted. -/
def endsAfter (s : State) (bits : List Bool) : Bool :=
  (s.readsBits bits).any fun t =>
    match t.readBit with
    | .bit _ _ => false
    | .exhausted _ => true
    | .never => false

theorem sourceRead_of_reads {s : State} {n : Nat} {t : List Byte} (h : reads s n = some t) :
    ∃ s₁, s.sourceRead n = some (t, s₁) := by
  cases e : s.sourceRead n with
  | none => simp [reads, e] at h
  | some q => simp only [reads, e, Option.map_some, Option.some.injEq] at h; exact ⟨q.2, by rw [← h]⟩

theorem sinkWrite_of_accepts {s : State} {bs : List Byte} {w : Nat} (h : accepts s bs = some w) :
    ∃ s₁, s.sinkWrite bs = some (w, s₁) := by
  cases e : s.sinkWrite bs with
  | none => simp [accepts, e] at h
  | some q => simp only [accepts, e, Option.map_some, Option.some.injEq] at h; exact ⟨q.2, by rw [← h]⟩

/-- A property of the outcome is one of a next state. -/
theorem next_elim {r : Result} {p : State → Bool} (h : next r p = true) : ∃ t, r = .next t ∧ p t = true := by
  cases r with
  | next t => exact ⟨t, rfl, h⟩
  | fault f => cases h
  | refused f => cases h

/-! ## Decoding: a word of each command, written out from OP + A·2^8 + B·2^16 (R131) and the map of R134 -/

theorem test_decode_control :
    decode ⟨0x00000000, 0⟩ = .instr .nop ∧ decode ⟨0x00000001, 0⟩ = .instr .reset ∧
    decode ⟨0x000E0002, 0⟩ = .instr (.regRead 0x0E) ∧ decode ⟨0x00050003, 0x10000⟩ = .instr (.regWrite 5 0x10000) := by
  decide +kernel

theorem test_decode_bitCode :
    decode ⟨0x00000010, 0⟩ = .instr .bcClear ∧ decode ⟨0x00000011, 0⟩ = .instr (.bcPush false) ∧
    decode ⟨0x00000111, 0⟩ = .instr (.bcPush true) ∧ decode ⟨0x00000012, 0⟩ = .instr .bcPop ∧
    decode ⟨0x00000013, 0⟩ = .instr .bcSize ∧ decode ⟨0x00000014, 0⟩ = .instr .bcIsEmpty ∧
    decode ⟨0x00000015, 0⟩ = .instr .bcIsFull ∧ decode ⟨0x00000016, 0⟩ = .instr .bcRender := by
  decide +kernel

theorem test_decode_queue :
    decode ⟨0x00000020, 0⟩ = .instr .pqClear ∧ decode ⟨0x80010021, 0⟩ = .instr (.pqEnq 0x8001) ∧
    decode ⟨0x00000022, 0⟩ = .instr .pqDeq ∧ decode ⟨0x00000023, 0⟩ = .instr .pqSize ∧
    decode ⟨0x00000024, 0⟩ = .instr .pqIsEmpty ∧ decode ⟨0x00000025, 0⟩ = .instr .pqIsFull := by
  decide +kernel

theorem test_decode_stack :
    decode ⟨0x03000030, 0⟩ = .instr (.nsInit 768) ∧ decode ⟨0x00010031, 0⟩ = .instr (.nsPush 1) ∧
    decode ⟨0x00000032, 0⟩ = .instr .nsPop ∧ decode ⟨0x00000033, 0⟩ = .instr .nsSize := by
  decide +kernel

theorem test_decode_arena :
    decode ⟨0x00006140, 3⟩ = .instr (.nodeLeaf 0x61 3) ∧ decode ⟨0x00010041, 0xFFFE⟩ = .instr (.nodeJoin 1 0xFFFE) ∧
    decode ⟨0x00020542, 0⟩ = .instr (.nodeRead 5 2) ∧ decode ⟨0x00020043, 0⟩ = .instr (.release 2) := by
  decide +kernel

theorem test_decode_histogram :
    decode ⟨0x00000050, 0⟩ = .instr .histClear ∧ decode ⟨0x00006251, 7⟩ = .instr (.histSet 0x62 7) ∧
    decode ⟨0x00001052, 0x8000000000000000⟩ = .instr (.histAdd 0x10 0x8000000000000000) ∧
    decode ⟨0x00006253, 0⟩ = .instr (.histGet 0x62) := by
  decide +kernel

theorem test_decode_tree :
    decode ⟨0x00000060, 0⟩ = .instr .build ∧ decode ⟨0x00000061, 0⟩ = .instr .codeTable ∧
    decode ⟨0x00000062, 0⟩ = .instr .serialize ∧ decode ⟨0x00000063, 0⟩ = .instr .deserialize ∧
    decode ⟨0x00006264, 0⟩ = .instr (.ctLen 0x62) ∧ decode ⟨0x0002FF65, 0⟩ = .instr (.ctBit 0xFF 2) ∧
    decode ⟨0x00006166, 0⟩ = .instr (.ctLoadBc 0x61) := by
  decide +kernel

theorem test_decode_bitstream :
    decode ⟨0x00000070, 0⟩ = .instr .bsReset ∧ decode ⟨0x00030071, 0⟩ = .instr (.setBit 3) ∧
    decode ⟨0x00030072, 0⟩ = .instr (.clrBit 3) ∧ decode ⟨0xFFFF0073, 0⟩ = .instr (.getBit 0xFFFF) ∧
    decode ⟨0x00000074, 0⟩ = .instr .readBit ∧ decode ⟨0x00006175, 0⟩ = .instr (.writeCode 0x61) ∧
    decode ⟨0x00000076, 0⟩ = .instr .writeBc ∧ decode ⟨0x00000077, 0⟩ = .instr .flush ∧
    decode ⟨0x00000078, 0⟩ = .instr .decSym ∧ decode ⟨0x00000079, 0⟩ = .instr .decodeAll := by
  decide +kernel

theorem test_decode_container :
    decode ⟨0x00000080, 0⟩ = .instr .hdrWrite ∧ decode ⟨0x00000081, 0⟩ = .instr .hdrRead := by
  decide +kernel

/-- Undefined opcodes beside defined ones (R137). -/
theorem test_decode_illegal :
    ([0x04, 0x17, 0x26, 0x34, 0x44, 0x54, 0x67, 0x7A, 0x82, 0xFF].map fun n => decode ⟨BitVec.ofNat 32 n, 0⟩) =
      List.replicate 10 .illegalOpcode := by
  decide +kernel

/-- The encoder puts the operands back: NODE_JOIN and BC_PUSH are the two special formats (R132). -/
theorem test_encode :
    encode (.nodeJoin 1 0xFFFE) = ⟨0x00010041, 0xFFFE⟩ ∧ encode (.bcPush true) = ⟨0x00000111, 0⟩ ∧
    encode (.ctBit 0xFF 2) = ⟨0x0002FF65, 0⟩ ∧ encode (.histSet 0x62 7) = ⟨0x00006251, 7⟩ := by
  decide +kernel

/-- The words of the table's rows with every operand 0, in the table's order. -/
def tableWords : List Nat := OpcodeRow.all.map fun r => r.pattern.toNat

theorem test_table_words_decode : (tableWords.all fun w => (decodeTableWord 32 w).isSome) = true ∧ tableWords.length = 48 := by
  decide +kernel

theorem test_table_words_run :
    (tableWords.all fun w => next (step (State.reset.withFetchWord 32 w)) fun _ => true) = true := by
  decide +kernel

/-! ## WellFormed: an ill-formed command for each check -/

theorem test_wellFormed_accepts :
    (⟨0x00000111, 0⟩ : Command).wellFormed = true ∧ (⟨0x00010041, 0xFFFF⟩ : Command).wellFormed = true := by
  decide +kernel

/-- T-CTL-11: the opcode. -/
theorem test_wellFormed_opcode : (⟨0x000000FF, 0⟩ : Command).wellFormed = false := by decide +kernel

/-- T-CTL-12: A of format N. -/
theorem test_wellFormed_a : (⟨0x00000100, 0⟩ : Command).wellFormed = false := by decide +kernel

/-- B of format A (HIST_GET). -/
theorem test_wellFormed_b : (⟨0x00016253, 0⟩ : Command).wellFormed = false := by decide +kernel

/-- T-CTL-13: D of format N. -/
theorem test_wellFormed_d : (⟨0x00000000, 1⟩ : Command).wellFormed = false := by decide +kernel

/-- T-BC-5: A[7:1] of BC_PUSH. -/
theorem test_wellFormed_push : (⟨0x00000211, 0⟩ : Command).wellFormed = false := by decide +kernel

/-- T-ND-8: D[63:16] of NODE_JOIN. -/
theorem test_wellFormed_join : (⟨0x00000041, 0x10001⟩ : Command).wellFormed = false := by decide +kernel

/-! ## One step of each command -/

/-- T-CTL-11: an illegal opcode halts with the command word. -/
theorem test_step_illegal :
    next (step (withCommand base 0x000000FF 0)) (fun t => t.resps == [⟨.eIllegal, 0xFF⟩] && t.statusWord == 0x110) = true := by
  decide +kernel

/-- T-CTL-14, T-CTL-18: refused in the error halt; STATUS and RESULT stay. -/
theorem test_step_halted :
    next (step (withCommand halted 0x00000013 0)) (fun t => t.resps == [⟨.halted, 0⟩] && t.statusWord == 0x110 &&
      t.result == 0xFF) = true ∧
    next (step (withCommand halted 0x00000101 0)) (fun t => t.resps == [⟨.halted, 0⟩]) = true := by
  decide +kernel

theorem test_nop : answers (exec .nop base) .ok 0 = true := by decide +kernel

/-- T-CTL-19. -/
theorem test_reset : next (exec .reset halted) (fun t => t.statusWord == 0 && t.result == 0) = true := by decide +kernel

/-- T-CTL-2 to T-CTL-4, T-CTL-10. -/
theorem test_regRead :
    answers (exec (.regRead 0x00) base) .ok 0x48554646 = true ∧ answers (exec (.regRead 0x0E) base) .ok 511 = true ∧
    answers (exec (.regRead 0x07) base) .ok 0xFFFF = true ∧ answers (exec (.regRead 0x11) base) .eOperand 0x11 = true := by
  decide +kernel

/-- T-CTL-15 to T-CTL-17. -/
theorem test_regRead_halted :
    answers (exec (.regRead 0x01) halted) .ok 0x110 = true ∧ answers (exec (.regRead 0x02) halted) .ok 0xFF = true ∧
    answers (exec (.regRead 0x11) halted) .halted 0 = true := by
  decide +kernel

/-- T-CTL-5, T-CTL-9. -/
theorem test_regWrite :
    next (exec (.regWrite 0x06 4) base) (fun t => t.hdrFsize == 4) = true ∧
    next (exec (.regWrite 0x07 5) base) (fun t => t.root == 5) = true := by
  decide +kernel

/-- T-CTL-6 to T-CTL-8. -/
theorem test_regWrite_refused :
    answers (exec (.regWrite 0x00 1) base) .eOperand 0 = true ∧
    answers (exec (.regWrite 0x05 0x10000) base) .eOperand 0x10000 = true ∧
    answers (exec (.regWrite 0x07 511) base) .eOperand 511 = true := by
  decide +kernel

/-- T-BC-9. -/
theorem test_bcClear : next (exec .bcClear bc110) (fun t => t.bc.len == 0) = true := by decide +kernel

/-- T-BC-1, T-BC-3. -/
theorem test_bcPush :
    next (exec (.bcPush true) bc110) (fun t => t.bc.toList == [true, true, false, true] && t.result == 4) = true ∧
    answers (exec (.bcPush false) { base with bc := ⟨0, 256⟩ }) .full 0 = true := by
  decide +kernel

/-- T-BC-2. -/
theorem test_bcPop :
    next (exec .bcPop bc110) (fun t => t.bc.toList == [true, true] && t.result == 0) = true ∧
    answers (exec .bcPop base) .empty 0 = true := by
  decide +kernel

theorem test_bcSize : answers (exec .bcSize bc110) .ok 3 = true := by decide +kernel

/-- T-BC-4. -/
theorem test_bcIsEmpty : answers (exec .bcIsEmpty base) .ok 1 = true := by decide +kernel

theorem test_bcIsFull : answers (exec .bcIsFull { base with bc := ⟨0, 256⟩ }) .ok 1 = true := by decide +kernel

/-- T-BC-6, T-BC-8. -/
theorem test_bcRender :
    next (exec .bcRender bc110) (fun t => t.sink == [0x31, 0x31, 0x30] && t.result == 3) = true ∧
    next (exec .bcRender { bc110 with sinkPlan := [.accept, .zeroTransfer] })
      (fun t => t.sink == [0x31] && t.code == .eSink && t.result == 1) = true := by
  decide +kernel

/-- T-PQ-5. -/
theorem test_pqClear : next (exec .pqClear queueTwo) (fun t => t.pqSize == 0) = true := by decide +kernel

/-- T-PQ-1 (n2 with key 5 goes behind n0 with key 5), T-PQ-3. -/
theorem test_pqEnq :
    next (exec (.pqEnq 2) (queueTwo.setNode 2 (leaf 0x41 5)))
      (fun t => t.pqList.map (·.node) == [1, 0, 2] && t.result == 3) = true ∧
    answers (exec (.pqEnq 0) base) .eOperand 0 = true := by
  decide +kernel

/-- T-PQ-1 (n3 with key 2 goes behind n1 with key 2), T-PQ-4. -/
theorem test_pqEnq_shift :
    next (exec (.pqEnq 3) (queueTwo.setNode 3 (leaf 0x41 2))) (fun t => t.pqList.map (·.node) == [1, 3, 0]) = true ∧
    answers (exec (.pqEnq 0) queueFull) .full 0 = true := by
  decide +kernel

/-- T-PQ-2. -/
theorem test_pqDeq :
    next (exec .pqDeq queueTwo) (fun t => t.pqList.map (·.node) == [0] && t.result == 1) = true ∧
    answers (exec .pqDeq base) .empty 0 = true := by
  decide +kernel

/-- T-PQ-4. -/
theorem test_pqSize : answers (exec .pqSize queueFull) .ok 256 = true := by decide +kernel

/-- T-PQ-5. -/
theorem test_pqIsEmpty : answers (exec .pqIsEmpty base) .ok 1 = true := by decide +kernel

/-- T-PQ-4. -/
theorem test_pqIsFull : answers (exec .pqIsFull queueFull) .ok 1 = true := by decide +kernel

/-- T-NS-1, T-NS-4. -/
theorem test_nsInit :
    next (exec (.nsInit 2) stackTwo) (fun t => t.nsCap == 2 && t.nsTop == 0) = true ∧
    answers (exec (.nsInit 768) base) .eOperand 768 = true := by
  decide +kernel

/-- T-NS-1, T-NS-2. -/
theorem test_nsPush :
    next (exec (.nsPush 1) { twoLeaves with nsCap := 2, nsTop := 1 }) (fun t => t.nsList == [0, 1] && t.result == 2) = true ∧
    answers (exec (.nsPush 0) stackTwo) .full 0 = true := by
  decide +kernel

/-- T-NS-2. -/
theorem test_nsPop :
    next (exec .nsPop stackTwo) (fun t => t.nsList == [0] && t.result == 1) = true ∧
    answers (exec .nsPop base) .empty 0 = true := by
  decide +kernel

theorem test_nsSize : answers (exec .nsSize stackTwo) .ok 2 = true := by decide +kernel

/-- T-ND-1, T-ND-13. -/
theorem test_nodeLeaf :
    next (exec (.nodeLeaf 0x61 3) base) (fun t => t.slot? 0 == some (leaf 0x61 3) && t.result == 0) = true ∧
    answers (exec (.nodeLeaf 0x41 1) fullArena) .full 0 = true := by
  decide +kernel

/-- T-ND-2. -/
theorem test_nodeJoin :
    next (exec (.nodeJoin 1 0) twoLeaves) (fun t => t.slot? 2 == some ⟨true, 0x24, 4, 1, 0, false⟩ && t.result == 2 &&
      (t.node 0).hasParent && (t.node 1).hasParent) = true := by
  decide +kernel

/-- T-ND-5 to T-ND-7. -/
theorem test_nodeJoin_refused :
    answers (exec (.nodeJoin 0 2) oneTree) .eOperand 0 = true ∧ answers (exec (.nodeJoin 0 0) twoLeaves) .eOperand 0 = true ∧
    answers (exec (.nodeJoin 0 5) twoLeaves) .eOperand 5 = true := by
  decide +kernel

/-- T-ND-3. -/
theorem test_nodeRead :
    answers (exec (.nodeRead 1 2) oneTree) .ok 4 = true ∧ answers (exec (.nodeRead 0 2) oneTree) .ok 0x24 = true ∧
    answers (exec (.nodeRead 4 2) oneTree) .ok 0 = true ∧ answers (exec (.nodeRead 2 2) oneTree) .ok 1 = true ∧
    answers (exec (.nodeRead 5 0) oneTree) .ok 1 = true := by
  decide +kernel

/-- T-ND-4. -/
theorem test_nodeRead_selector : answers (exec (.nodeRead 6 2) oneTree) .eOperand 6 = true := by decide +kernel

/-- T-ND-9, T-ND-10. -/
theorem test_release :
    answers (exec (.release 0) oneTree) .eOperand 0 = true ∧
    next (exec (.release 2) oneTree) (fun t => t.freeSlots == 511 && t.root == 0xFFFF && t.result == 3) = true := by
  decide +kernel

/-- T-HI-4. -/
theorem test_histClear : next (exec .histClear threeHist) (fun t => t.histAt 0x42 == 0) = true := by decide +kernel

/-- T-HI-3. -/
theorem test_histSet : next (exec (.histSet 0x62 7) base) (fun t => t.histAt 0x62 == 7 && t.result == 0) = true := by
  decide +kernel

/-- T-HI-2. -/
theorem test_histAdd : answers (exec (.histAdd 0x10 2) (base.setHist 0x10 0xFFFFFFFFFFFFFFFF)) .ok 1 = true := by
  decide +kernel

theorem test_histGet : answers (exec (.histGet 0x42) threeHist) .ok 1 = true := by decide +kernel

/-- T-BUILD-4: three equal counts; n3 = join(n0, n1) goes behind n2, so n4 = join(n2, n3). -/
theorem test_build :
    next (exec .build threeHist) (fun t => t.root == 4 && t.hdrTsize == 8 && t.result == 3 && t.pqSize == 0 &&
      t.slot? 3 == some ⟨true, 0x24, 2, 0, 1, true⟩ && t.slot? 4 == some ⟨true, 0x24, 3, 2, 3, false⟩) = true := by
  decide +kernel

/-- T-BUILD-9, T-BUILD-11. -/
theorem test_build_refused :
    answers (exec .build (base.setHist 0x61 3)) .ePrecond 1 = true ∧
    answers (exec .build { threeHist with arena := fullArena.arena }) .eNoMem 0 = true := by
  decide +kernel

/-- T-CT-1, T-CT-2: the codes of T-BUILD-1. -/
theorem test_codeTable :
    next (exec .codeTable aaab) (fun t => t.result == 4 && (t.ctAt 0x61).code.toList == [false] &&
      (t.ctAt 0x62).code.toList == [true, true, true] && !(t.ctAt 0x41).valid) = true := by
  decide +kernel

/-- T-CT-6, T-CT-7. -/
theorem test_codeTable_roots :
    answers (exec .codeTable base) .eOperand 0xFFFF = true ∧
    next (exec .codeTable leafRoot) (fun t => t.result == 1 && t.ctAt 0x61 == ⟨true, BitCode.empty⟩) = true := by
  decide +kernel

/-- T-SER-1, T-SER-2. -/
theorem test_serialize :
    next (exec .serialize aaab) (fun t => t.sink == [0x4C, 0x61, 0x4C, 0xFF, 0x4C, 0x00, 0x4C, 0x62, 0x49, 0x49, 0x49]) = true ∧
    answers (exec .serialize { aaab with sinkPlan := List.replicate 4 .accept ++ [.zeroTransfer] }) .eSink 4 = true := by
  decide +kernel

/-- T-DES-1. -/
theorem test_deserialize :
    next (exec .deserialize { withSource base [0x4C, 0x61, 0x4C, 0xFF, 0x4C, 0x00, 0x4C, 0x62, 0x49, 0x49, 0x49] with hdrTsize := 11 })
      (fun t => t.root == 6 && t.result == 4 && t.slot? 4 == some ⟨true, 0x24, 0, 2, 3, true⟩ &&
        t.slot? 6 == some ⟨true, 0x24, 0, 0, 5, false⟩ && t.nsTop == 0 && t.nsCap == 11) = true := by
  decide +kernel

/-- T-DES-2, T-DES-5, T-DES-7, T-DES-8. -/
theorem test_deserialize_refused :
    answers (exec .deserialize base) .eDump 0 = true ∧
    answers (exec .deserialize { withSource base [0x4C, 0x61, 0x58] with hdrTsize := 3 }) .eDump 2 = true ∧
    answers (exec .deserialize { withSource base [0x4C, 0x61, 0x4C, 0x62, 0x49, 0x49] with hdrTsize := 6 }) .eDump 5 = true ∧
    answers (exec .deserialize { base with hdrTsize := 768 }) .eDump 768 = true := by
  decide +kernel

/-- T-CT-2. -/
theorem test_ctLen :
    answers (exec (.ctLen 0x61) ct110) .ok 0x10003 = true ∧ answers (exec (.ctLen 0x41) ct110) .ok 0 = true := by
  decide +kernel

/-- T-CT-3, T-CT-4. -/
theorem test_ctBit :
    answers (exec (.ctBit 0x61 1) ct110) .ok 1 = true ∧ answers (exec (.ctBit 0x61 2) ct110) .ok 0 = true ∧
    answers (exec (.ctBit 0x61 3) ct110) .eOperand 3 = true ∧ answers (exec (.ctBit 0x41 0) ct110) .eNoCode 0x41 = true := by
  decide +kernel

/-- T-CT-5. -/
theorem test_ctLoadBc : next (exec (.ctLoadBc 0x61) ct110) (fun t => t.bc == code110 && t.result == 3) = true := by
  decide +kernel

theorem test_bsReset :
    next (exec .bsReset { base with wrCur := 3, rdCur := 1, rdEnd := 8 }) (fun t => t.wrCur == 0 && t.rdCur == 0 && t.rdEnd == 0)
      = true := by
  decide +kernel

/-- T-BS-5, T-BS-6. -/
theorem test_setBit :
    next (exec (.setBit 3) base) (fun t => t.bufByte 0 == 0x08) = true ∧ answers (exec (.setBit 8) base) .eOperand 8 = true := by
  decide +kernel

theorem test_clrBit : next (exec (.clrBit 3) { base with buf := 0xFF }) (fun t => t.bufByte 0 == 0xF7) = true := by
  decide +kernel

theorem test_getBit : answers (exec (.getBit 3) { base with buf := 0x08 }) .ok 1 = true := by decide +kernel

/-- T-BS-3. -/
theorem test_readBit :
    next (exec .readBit (withSource base [0xA5, 0x01])) (fun t => t.result == 1 && t.rdCur == 1 && t.rdEnd == 8 && t.taken == 1)
      = true ∧
    answers (exec .readBit base) .exhausted 0 = true := by
  decide +kernel

/-- W5: bit 11 of a buffer of two bytes is bit 3 of byte 1. -/
theorem test_readBit_place :
    answers (exec .readBit { base with params := ⟨1, 0⟩, buf := 0x0800, rdCur := 11, rdEnd := 16 }) .ok 1 = true := by
  decide +kernel

/-- T-BS-7 (the first bits of the byte), T-BS-8. -/
theorem test_writeCode :
    next (exec (.writeCode 0x61) { ct110 with wrCur := 3 }) (fun t => t.bufByte 0 == 0x18 && t.wrCur == 6 && t.result == 3) = true ∧
    answers (exec (.writeCode 0x41) ct110) .eNoCode 0x41 = true := by
  decide +kernel

/-- T-BS-1. -/
theorem test_writeBc :
    next (exec .writeBc { base with bc := ⟨0x14D, 9⟩ }) (fun t => t.sink == [0x4D] && t.wrCur == 1 && t.result == 9) = true := by
  decide +kernel

/-- T-BS-2, with WR_CUR = 8 of 16 so that no padding is drawn. -/
theorem test_flush :
    next (exec .flush { base with params := ⟨1, 0⟩, buf := 0x4D, wrCur := 8 }) (fun t => t.sink == [0x4D] && t.wrCur == 0 &&
      t.result == 1) = true ∧
    answers (exec .flush base) .ok 0 = true := by
  decide +kernel

/-- T-BS-10: the bits 1 1 1 of 'b'. -/
theorem test_decSym :
    next (exec .decSym { withSource aaab [0x38] with buf := 0x38, rdCur := 3, rdEnd := 8 }) (fun t => t.result == 0x62 && t.rdCur == 6)
      = true := by
  decide +kernel

/-- T-BS-10a, T-BS-14. -/
theorem test_decSym_refused :
    answers (exec .decSym { aaab with buf := 0xF8, rdCur := 6, rdEnd := 8 }) .eTrunc 2 = true ∧
    answers (exec .decSym leafRoot) .eDegen 0 = true := by
  decide +kernel

/-- T-BS-11. -/
theorem test_decodeAll :
    next (exec .decodeAll { withSource aaab [0x38] with hdrFsize := 4 })
      (fun t => t.sink == [0x61, 0x61, 0x61, 0x62] && t.result == 4 && t.rdCur == 6 && t.rdEnd == 8) = true := by
  decide +kernel

/-- T-BS-12a, T-BS-15, T-BS-16. -/
theorem test_decodeAll_ends :
    answers (exec .decodeAll { withSource aaab [0xF8] with hdrFsize := 5 }) .eTrunc 4 = true ∧
    answers (exec .decodeAll leafRoot) .ok 0 = true ∧ answers (exec .decodeAll base) .eOperand 0xFFFF = true := by
  decide +kernel

/-- T-HDR-1, with MAGIC = 0x12345678. -/
theorem test_hdrWrite :
    next (exec .hdrWrite { base with hdrPerms := 0x1A4, hdrTsize := 11, hdrFsize := 4 }) (fun t => t.sink ==
      [0x78, 0x56, 0x34, 0x12, 0xA4, 0x01, 0x0B, 0x00, 0x04, 0x00, 0x00, 0x00, 0x00, 0x00, 0x00, 0x00]) = true := by
  decide +kernel

/-- T-HDR-2, T-HDR-3. -/
theorem test_hdrRead :
    next (exec .hdrRead (withSource base
      [0x78, 0x56, 0x34, 0x12, 0xA4, 0x01, 0x0B, 0x00, 0x04, 0x00, 0x00, 0x00, 0x00, 0x00, 0x00, 0x00]))
      (fun t => t.hdrPerms == 0x1A4 && t.hdrTsize == 11 && t.hdrFsize == 4 && t.result == 16) = true ∧
    answers (exec .hdrRead (withSource base ([0x79, 0x56, 0x34, 0x12] ++ List.replicate 12 0))) .eMagic 0x12345679 = true := by
  decide +kernel

/-- T-HDR-5: the length is checked before the magic. -/
theorem test_hdrRead_short : answers (exec .hdrRead (withSource base [0, 0])) .eTrunc 2 = true := by decide +kernel

/-! ## Hypotheses that can be met -/

/-- oneTree with a NODE_JOIN of n2 and a fourth node on the port, a queue of two entries, a stack and cursors in use. -/
def busy : State :=
  { (oneTree.setNode 3 (leaf 0x41 9)) with
    pqSlots := queueTwo.pqSlots, pqTail := 2, nse := stackTwo.nse, nsCap := 2, nsTop := 2, bc := code110, wrCur := 7,
    rdCur := 8, rdEnd := 8, buf := 0xFF, port := [.command ⟨0x00020041, 3⟩] }

/-- A step of `busy` answers a next state. -/
theorem busy_steps : ∃ t, step busy = .next t ∧ (t.code == .ok) = true := next_elim (by decide +kernel)

/-- No slot of the base state is live. -/
theorem base_valid (n : NodeIx) : base.valid n = false := by
  unfold State.valid State.slot?
  split
  · rename_i h
    simp [base, State.reset, Node.free]
  · rfl

/-- The live nodes of `busy` are n0 to n3. -/
theorem busy_valid {n : NodeIx} (h : busy.valid n = true) : n = 0 ∨ n = 1 ∨ n = 2 ∨ n = 3 := by
  have hb := base_valid n
  have e : busy.slot? n = ((((base.setNode 0 { leaf 0x61 3 with hasParent := true }).setNode 1
      { leaf 0x62 1 with hasParent := true }).setNode 2 ⟨true, 0x24, 4, 1, 0, false⟩).setNode 3 (leaf 0x41 9)).slot? n := rfl
  unfold State.valid at h hb
  rw [e, slot?_setNode, slot?_setNode, slot?_setNode, slot?_setNode] at h
  by_contra hn
  simp only [not_or] at hn
  simp only [hn.1, hn.2.1, hn.2.2.1, hn.2.2.2, false_and, if_false, hb] at h
  exact Bool.false_ne_true h

/-- The only internal node of `busy` is n2. -/
theorem busy_internal {p : NodeIx} (h : busy.valid p = true) (hl : (busy.node p).isLeaf = false) : p = 2 := by
  have h0 : (busy.node 0).isLeaf = true := by decide +kernel
  have h1 : (busy.node 1).isLeaf = true := by decide +kernel
  have h3 : (busy.node 3).isLeaf = true := by decide +kernel
  obtain rfl | rfl | rfl | rfl := busy_valid h
  · rw [h0] at hl; cases hl
  · rw [h1] at hl; cases hl
  · rfl
  · rw [h3] at hl; cases hl

theorem busy_forest : busy.Forest where
  children p h hl := by obtain rfl := busy_internal h hl; decide +kernel
  owned c p h := by
    obtain ⟨hv, hl, hc⟩ := h
    obtain rfl := busy_internal hv hl
    have l : (busy.node 2).left = 1 := by decide +kernel
    have r : (busy.node 2).right = 0 := by decide +kernel
    rw [l, r] at hc
    obtain rfl | rfl := hc <;> decide +kernel
  oneOwner c p q hp hq := (busy_internal hp.1 hp.2.1).trans (busy_internal hq.1 hq.2.1).symm
  finite n h := by
    obtain rfl | rfl | rfl | rfl := busy_valid h
    · exact ⟨.leaf 0 0x61, by decide +kernel⟩
    · exact ⟨.leaf 1 0x62, by decide +kernel⟩
    · exact ⟨.node 2 (.leaf 1 0x62) (.leaf 0 0x61), by decide +kernel⟩
    · exact ⟨.leaf 3 0x41, by decide +kernel⟩

theorem busy_bounds : busy.Bounds where
  bcLen := by decide +kernel
  ctLen x := by
    have e : busy.ct = Vector.replicate 256 ⟨false, BitCode.empty⟩ := rfl
    have h : busy.ctAt x = ⟨false, BitCode.empty⟩ := by simp [State.ctAt, e]
    rw [h]; decide
  nsTop := by decide +kernel
  nsCap := by decide +kernel
  root := by decide +kernel
  wrCur := by decide +kernel
  rdCur := by decide +kernel
  rdEnd := by decide +kernel
  whole := by decide +kernel
  memory := by decide +kernel

theorem test_hyp_EncodeOfDecodeIsTheCommand : decode ⟨0x00020041, 3⟩ = .instr (.nodeJoin 2 3) := by decide +kernel

theorem test_hyp_UndefinedOpcodesRaiseIllegal :
    base.err = false ∧ (withCommand base 0x04 0).port = .command ⟨0x04, 0⟩ :: [] ∧
    undefinedOpcode (Command.op ⟨0x04, 0⟩).toNat = true ∧ undefinedOpcode (Command.op ⟨0xABCDFFFF, 7⟩).toNat = true ∧
    undefinedOpcode (Command.op ⟨0x82, 0⟩).toNat = true := by
  decide +kernel

theorem test_hyp_ReservedFieldsRaiseIllegal :
    (withCommand base 0x00000041 0x10000).port = .command ⟨0x00000041, 0x10000⟩ :: [] ∧
    (withCommand base 0x00000041 0x10000).err = false ∧ (⟨0x00000041, 0x10000⟩ : Command).wellFormed = false := by
  decide +kernel

theorem test_hyp_StepRunsTheDecodedCommand :
    busy.port = .command ⟨0x00020041, 3⟩ :: [] ∧ decode ⟨0x00020041, 3⟩ = .instr (.nodeJoin 2 3) := by
  decide +kernel

theorem test_hyp_StepWaitsOrPowersOn :
    base.port = [] ∧ ({ halted with port := [.powerOn] } : State).port = .powerOn :: [] := by
  decide +kernel

/-- RESET, REG_READ of 0x10 and 0x11, a command like RESET, and another command, in the error halt. -/
theorem test_hyp_ErrorHaltServesOnlyResetAndRegRead :
    halted.err = true ∧ (withCommand halted 0x00000001 0).port = .command ⟨0x00000001, 0⟩ :: [] ∧
    ((0x00100002 : BitVec 32).toNat % 2 ^ 16 = 0x0002 ∧ (halted.registerValues[(0x00100002 : BitVec 32).toNat / 2 ^ 16]?).isSome) ∧
    ((0x00110002 : BitVec 32).toNat % 2 ^ 16 = 0x0002 ∧ halted.registerValues[(0x00110002 : BitVec 32).toNat / 2 ^ 16]? = none) ∧
    (⟨0x00000101, 0⟩ : Command) ≠ ⟨0x00000001, 0⟩ ∧ (0x00000101 : BitVec 32).toNat % 2 ^ 16 ≠ 0x0002 := by
  decide +kernel

theorem test_hyp_OnlyResetLeavesTheErrorHalt :
    (∃ t, step (withCommand halted 0x00000001 0) = .next t ∧ (t.err == false) = true) ∧
    (∃ t, step { halted with port := [.powerOn] } = .next t ∧ (t.err == false) = true) ∧
    (withCommand halted 0x00000001 0).err = true :=
  ⟨next_elim (by decide +kernel), next_elim (by decide +kernel), rfl⟩

theorem test_hyp_StepKeepsErrEqualToFatalCode :
    busy.ErrIsFatal ∧ halted.ErrIsFatal ∧ (∃ t, step busy = .next t ∧ (t.code == .ok) = true) :=
  ⟨⟨by decide +kernel, by decide +kernel⟩, ⟨by decide +kernel, by decide +kernel⟩, busy_steps⟩

theorem test_hyp_NonFatalFailureChangesNothing :
    base.err = false ∧ (∃ t, exec .nsPop base = .next t ∧ (t.code == .empty) = true) ∧
    (∃ t, exec (.nodeLeaf 0x41 1) fullArena = .next t ∧ (t.code == .full) = true) ∧
    (∃ t, exec .readBit { base with source := [.zeroTransfer] } = .next t ∧ (t.code == .exhausted) = true) :=
  ⟨rfl, next_elim (by decide +kernel), next_elim (by decide +kernel), next_elim (by decide +kernel)⟩

theorem test_hyp_EveryCommandAnswersOnce :
    busy.port = .command ⟨0x00020041, 3⟩ :: [] ∧ busy.err = false ∧ (∃ t, step busy = .next t ∧ (t.code == .ok) = true) :=
  ⟨by decide +kernel, by decide +kernel, busy_steps⟩

theorem test_hyp_CommandsAnswerOnlyTheirCodes :
    base.err = false ∧ (∃ t, exec (.nsInit 768) base = .next t ∧ (t.code == .eOperand) = true) :=
  ⟨rfl, next_elim (by decide +kernel)⟩

theorem test_hyp_EveryCommandKeepsItsFrame :
    (∃ t, exec (.nodeJoin 2 3) busy = .next t ∧ (t.code == .ok && t.result == 4) = true) :=
  next_elim (by decide +kernel)

theorem test_hyp_ChannelsOnlyMoveForward :
    ∃ t, step (withCommand bc110 0x00000016 0) = .next t ∧ (t.sink == [0x31, 0x31, 0x30]) = true :=
  next_elim (by decide +kernel)

theorem test_hyp_StepKeepsBounds : busy.Bounds ∧ ∃ t, step busy = .next t ∧ (t.code == .ok) = true :=
  ⟨busy_bounds, busy_steps⟩

theorem test_hyp_StepKeepsTheQueueOrdered : busy.QueueOrdered ∧ ∃ t, step busy = .next t ∧ (t.code == .ok) = true :=
  ⟨by unfold State.QueueOrdered; decide +kernel, busy_steps⟩

theorem test_hyp_StepKeepsTheForest : busy.Forest ∧ ∃ t, step busy = .next t ∧ (t.code == .ok) = true :=
  ⟨busy_forest, busy_steps⟩

theorem test_hyp_ForestStepStopsOnlyOnAChannel : busy.Forest := busy_forest

/-- The outcomes of REG_WRITE at the edges of its conditions. -/
theorem test_hyp_RegWriteStoresLegalValues :
    base.err = false ∧ answers (exec (.regWrite 0x03 0) base) .eOperand 3 = true ∧
    answers (exec (.regWrite 0x08 0) base) .eOperand 8 = true ∧ answers (exec (.regWrite 0x04 0xFFFF) base) .ok 0 = true ∧
    answers (exec (.regWrite 0x05 0x10000) base) .eOperand 0x10000 = true ∧
    answers (exec (.regWrite 0x06 0xFFFFFFFFFFFFFFFF) base) .ok 0 = true ∧
    answers (exec (.regWrite 0x07 510) base) .ok 0 = true ∧ answers (exec (.regWrite 0x07 0xFFFF) base) .ok 0 = true ∧
    answers (exec (.regWrite 0x07 511) base) .eOperand 511 = true := by
  decide +kernel

theorem test_hyp_AnsweringCommandsAnswerTheirValue : busy.err = false := by decide +kernel

theorem test_hyp_ClearingCommandsClear : busy.err = false := by decide +kernel

theorem test_hyp_BcPushAppendsOrIsFull :
    (({ base with bc := ⟨0, 256⟩ } : State).err = false ∧ ({ base with bc := ⟨0, 256⟩ } : State).bc.len = 256) ∧
    (({ base with bc := ⟨0, 255⟩ } : State).err = false ∧ ({ base with bc := ⟨0, 255⟩ } : State).bc.len < 256) := by
  decide +kernel

theorem test_hyp_BcPopRemovesOrIsEmpty :
    (base.err = false ∧ base.bc.len = 0) ∧
    (({ base with bc := ⟨1, 1⟩ } : State).err = false ∧ 0 < ({ base with bc := ⟨1, 1⟩ } : State).bc.len) := by
  decide +kernel

theorem test_hyp_PqEnqInsertsAsTheListModel :
    (queueTwo.err = false ∧ queueTwo.valid 2 = false) ∧ (queueFull.valid 0 = true ∧ queueFull.pqSize = 256) ∧
    (queueTwo.valid 0 = true ∧ queueTwo.pqSize < 256 ∧ queueTwo.pqList.Pairwise fun a b => a.key ≤ b.key) ∧
    (({ queueTwo with pqTail := 255 } : State).pqSize < 256) := by
  decide +kernel

theorem test_hyp_PqDeqRemovesTheHead :
    (base.err = false ∧ base.pqList = []) ∧ (queueTwo.err = false ∧ queueTwo.pqList = ⟨1, 2⟩ :: [⟨0, 5⟩]) := by
  decide +kernel

theorem test_hyp_QueueIsFifoAmongEqualKeys :
    (queueTwo.pqList.Pairwise fun a b => a.key ≤ b.key) ∧ queueTwo.pqSize + (List.replicate 254 (1 : NodeIx)).length ≤ 256 := by
  decide +kernel

theorem test_hyp_NodeStackIsABoundedStack :
    stackTwo.err = false ∧ stackTwo.valid 2 = false ∧ (stackTwo.valid 0 = true ∧ stackTwo.nsTop = stackTwo.nsCap) ∧
    (({ stackTwo with nsCap := 767, nsTop := 766 } : State).valid 0 = true ∧
      ({ stackTwo with nsCap := 767, nsTop := 766 } : State).nsTop < ({ stackTwo with nsCap := 767, nsTop := 766 } : State).nsCap) ∧
    base.nsTop = 0 ∧ (0 < stackTwo.nsTop ∧ stackTwo.nsTop ≤ 767) ∧
    answers (exec (.nsInit 767) base) .ok 0 = true ∧ answers (exec (.nsInit 768) base) .eOperand 768 = true := by
  decide +kernel

theorem test_hyp_NodeLeafFillsTheLowestFreeSlot :
    (fullArena.err = false ∧ fullArena.freeSlots = 0) ∧
    (({ fullArena with arena := fullArena.arena.set 510 Node.free } : State).err = false ∧
      0 < ({ fullArena with arena := fullArena.arena.set 510 Node.free } : State).freeSlots) := by
  decide +kernel

theorem test_hyp_NodeJoinMakesTheParent :
    twoLeaves.err = false ∧ twoLeaves.slot? 1 = some (leaf 0x62 1) ∧ twoLeaves.slot? 0 = some (leaf 0x61 3) ∧
    (leaf 0x62 1).valid = true ∧ (leaf 0x61 3).valid = true ∧ (1 : NodeIx) ≠ 0 ∧ (leaf 0x62 1).hasParent = false ∧
    (leaf 0x61 3).hasParent = false ∧ 0 < twoLeaves.freeSlots := by
  decide +kernel

theorem test_hyp_NodeJoinChecksInOrder :
    busy.err = false ∧ busy.valid 511 = false ∧ (busy.valid 2 = true ∧ busy.valid 4 = false) ∧
    (busy.valid 0 = true ∧ busy.valid 2 = true ∧ (busy.node 0).hasParent = true) ∧
    (busy.valid 3 = true ∧ (busy.node 2).hasParent = false ∧ (busy.node 1).hasParent = true) ∧
    (fullArena.err = false ∧ fullArena.valid 0 = true ∧ fullArena.valid 510 = true ∧ (fullArena.node 0).hasParent = false ∧
      (fullArena.node 510).hasParent = false ∧ fullArena.freeSlots = 0) := by
  decide +kernel

/-- The outcomes of NODE_READ where its conditions meet. -/
theorem test_hyp_NodeReadAnswersTheField :
    oneTree.err = false ∧ answers (exec (.nodeRead 6 511) oneTree) .eOperand 6 = true ∧
    answers (exec (.nodeRead 5 511) oneTree) .eOperand 511 = true ∧ answers (exec (.nodeRead 5 2) oneTree) .ok 0 = true := by
  decide +kernel

theorem test_hyp_ReleaseFreesTheWholeTree :
    oneTree.err = false ∧ oneTree.valid 3 = false ∧ (oneTree.valid 0 = true ∧ (oneTree.node 0).hasParent = true) ∧
    (oneTree.valid 2 = true ∧ (oneTree.node 2).hasParent = false ∧
      oneTree.treeAt 2 = some (.node 2 (.leaf 1 0x62) (.leaf 0 0x61))) := by
  decide +kernel

theorem test_hyp_HistogramWritesOneEntry : threeHist.err = false := by decide +kernel

theorem test_hyp_BuildChecksBeforeItChanges :
    ((base.setHist 0x61 3).err = false ∧ (base.setHist 0x61 3).symbolCount < 2) ∧
    (({ threeHist with arena := fullArena.arena } : State).err = false ∧
      2 ≤ ({ threeHist with arena := fullArena.arena } : State).symbolCount ∧
      ({ threeHist with arena := fullArena.arena } : State).freeSlots < 2 * 2 - 1) := by
  decide +kernel

theorem test_hyp_BuildMakesTheTreeOfTheHistogram :
    threeHist.err = false ∧ 2 ≤ threeHist.symbolCount ∧ 2 * threeHist.symbolCount - 1 ≤ threeHist.freeSlots := by
  decide +kernel

/-- A tree, and one whose two leaves hold the same symbol (T-DES-12). -/
theorem test_hyp_CodeTableHoldsPrefixFreeTreePaths :
    let tr : NodeTree := .node 2 (.leaf 1 0x62) (.leaf 0 0x61)
    let twice : State := oneTree.setNode 1 { leaf 0x61 1 with hasParent := true }
    (oneTree.err = false ∧ oneTree.valid oneTree.root = true ∧ oneTree.treeAt oneTree.root = some tr ∧ tr.height ≤ 256) ∧
    (twice.err = false ∧ twice.valid twice.root = true ∧
      twice.treeAt twice.root = some (.node 2 (.leaf 1 0x61) (.leaf 0 0x61))) := by
  decide +kernel

theorem test_hyp_RootCommandsRefuseAnInvalidRoot :
    (base.err = false ∧ base.valid base.root = false) ∧ ({ base with root := 510 } : State).valid 510 = false := by
  decide +kernel

theorem test_hyp_CodeTableReadsAnswerTheCode :
    ct110.err = false ∧ (ct110.ctAt 0x41).valid = false ∧ (ct110.ctAt 0x61).valid = true ∧
    (ct110.ctAt 0x61).code.len ≤ (3 : BitVec 16).toNat ∧ (ct110.ctAt 0x61).code.toList[(2 : BitVec 16).toNat]? = some false := by
  decide +kernel

theorem test_hyp_DeserializeRebuildsTheDumpedTree :
    let tr : NodeTree := .node 2 (.leaf 0 0x61) (.leaf 1 0x62)
    let s : State := { withSource base ([0x4C, 0x61, 0x4C, 0x62, 0x49] ++ [0x38]) with hdrTsize := 5 }
    s.err = false ∧ tr.leafCount ≤ 256 ∧ 2 * tr.leafCount - 1 ≤ s.freeSlots ∧ s.hdrTsize.toNat = tr.dump.length ∧
    s.source = tr.dump.map .byte ++ [.byte 0x38] := by
  decide +kernel

/-- A source of "L a L" and then its end: each clause at another HDR_TSIZE. -/
theorem test_hyp_DeserializeRefusesInOrder :
    let s (n : BitVec 16) : State := { withSource fullArena [0x4C, 0x61, 0x4C] with hdrTsize := n }
    fullArena.err = false ∧ 767 < (s 768).hdrTsize.toNat ∧
    ((s 767).hdrTsize.toNat ≤ 767 ∧ ∃ s₁, (s 767).sourceRead (s 767).hdrTsize.toNat = some ([0x4C, 0x61, 0x4C], s₁)) ∧
    ((∃ s₁, (s 3).sourceRead (s 3).hdrTsize.toNat = some ([0x4C, 0x61, 0x4C], s₁)) ∧
      checkDump [0x4C, 0x61, 0x4C] 0 0 0 = .bad 2) ∧
    (∃ s₁, (s 2).sourceRead (s 2).hdrTsize.toNat = some ([0x4C, 0x61], s₁)) ∧ checkDump [0x4C, 0x61] 0 0 0 = .good 1 ∧
    (s 2).freeSlots < 2 * 1 - 1 :=
  ⟨by decide +kernel, by decide +kernel, ⟨by decide +kernel, sourceRead_of_reads (by decide +kernel)⟩,
    ⟨sourceRead_of_reads (by decide +kernel), by decide +kernel⟩, sourceRead_of_reads (by decide +kernel),
    by decide +kernel, by decide +kernel⟩

theorem test_hyp_ChannelsMoveBytesInOrder :
    (∃ t, ({ base with source := [.byte 1, .byte 2, .never] } : State).sourceRead 2 = some ([1, 2], t)) ∧
    (∃ t, ({ base with source := [.byte 1, .zeroTransfer, .byte 2] } : State).sourceRead 2 = some ([1], t)) ∧
    (∃ t, ({ base with source := [.byte 1] } : State).sourceRead 2 = some ([1], t)) ∧
    (∃ t, ({ base with sinkPlan := [.accept, .zeroTransfer, .never] } : State).sinkWrite [1, 2] = some (1, t)) ∧
    ∃ t, ({ base with sinkPlan := [.accept] } : State).sinkWrite [1, 2] = some (2, t) :=
  ⟨sourceRead_of_reads (by decide +kernel), sourceRead_of_reads (by decide +kernel), sourceRead_of_reads (by decide +kernel),
    sinkWrite_of_accepts (by decide +kernel), sinkWrite_of_accepts (by decide +kernel)⟩

theorem test_hyp_SendingCommandsSendTheirBytes :
    bc110.err = false ∧ bc110.sinkPlan = [] ∧
    (∃ t, ({ bc110 with sinkPlan := [.accept, .zeroTransfer] } : State).sinkWrite [0x31, 0x31, 0x30] = some (1, t)) ∧
    ({ bc110 with sinkPlan := [.accept, .never] } : State).sinkWrite [0x31, 0x31, 0x30] = none ∧
    oneTree.valid oneTree.root = true ∧ oneTree.treeAt oneTree.root = some (.node 2 (.leaf 1 0x62) (.leaf 0 0x61)) :=
  ⟨by decide +kernel, by decide +kernel, sinkWrite_of_accepts (by decide +kernel), rfl, by decide +kernel, by decide +kernel⟩

theorem test_hyp_HdrReadLoadsTheHeader :
    base.err = false ∧
    (withSource base (headerOf 0x12345678 0x1A4 11 4)).source = (headerOf base.params.magic 0x1A4 11 4).map .byte ++ [] ∧
    (0x12345679 ≠ base.params.magic ∧
      (withSource base (headerOf 0x12345679 0 0 0)).source = (headerOf 0x12345679 0 0 0).map .byte ++ []) ∧
    ∃ t, (withSource base [0x78, 0x56]).sourceRead 16 = some ([0x78, 0x56], t) :=
  ⟨by decide +kernel, by decide +kernel, by decide +kernel, sourceRead_of_reads (by decide +kernel)⟩

theorem test_hyp_BitCommandsActOnOneBit :
    base.err = false ∧ 8 * base.params.blockBytes ≤ (8 : BitVec 16).toNat ∧ (7 : BitVec 16).toNat < 8 * base.params.blockBytes := by
  decide +kernel

theorem test_hyp_ReadBitAnswersTheNextBit :
    (busy.err = false ∧ ({ busy with rdCur := 7 } : State).rdCur ≠ busy.rdEnd) ∧ busy.rdCur = busy.rdEnd ∧
    (∃ t, busy.sourceRead busy.params.blockBytes = some ([], t)) ∧
    ∃ t, (withSource busy [0xA5]).sourceRead busy.params.blockBytes = some (0xA5 :: [], t) :=
  ⟨by decide +kernel, by decide +kernel, sourceRead_of_reads (by decide +kernel), sourceRead_of_reads (by decide +kernel)⟩

theorem test_hyp_ReaderReturnsTheSourceBits :
    (withSource base [0xA5, 0x01]).rdCur = (withSource base [0xA5, 0x01]).rdEnd ∧
    (withSource base [0xA5, 0x01]).source = ([0xA5, 0x01] : List Byte).map .byte ∧ 16 ≤ 8 * ([0xA5, 0x01] : List Byte).length := by
  decide +kernel

theorem test_hyp_WritersAppendTheirCode :
    let s : State := { ct110 with bc := code110, wrCur := 7, sinkPlan := [.accept, .zeroTransfer] }
    (ct110.err = false ∧ (ct110.ctAt 0x41).valid = false) ∧
    (s.err = false ∧ s.wrCur < s.bufBits ∧ (s.wrCur + s.bc.len) / s.bufBits * s.params.blockBytes = 1 ∧
      (∀ e ∈ s.sinkPlan.take 1, e = .accept) ∧ (s.ctAt 0x61).valid = true ∧ (s.ctAt 0x61).code.len = s.bc.len) := by
  decide +kernel

/-- The block fills at the second bit of the code, and the second block of a code at its last bit. -/
theorem test_hyp_RefusedBlockRaisesSink :
    let s : State := { ct110 with bc := code110, wrCur := 6, sinkPlan := [.zeroTransfer, .accept] }
    let u : State := { s with bc := ⟨0x14D, 9⟩, wrCur := 7, sinkPlan := [.accept, .zeroTransfer] }
    (s.err = false ∧ s.wrCur < s.bufBits ∧ s.wrCur + [true].length + 1 = (0 + 1) * s.bufBits ∧ 0 < s.params.blockBytes ∧
      s.sinkPlan = List.replicate (0 * s.params.blockBytes + 0) .accept ++ .zeroTransfer :: [.accept] ∧
      s.bc.toList = [true] ++ true :: [false] ∧ (s.ctAt 0x61).valid = true ∧
      (s.ctAt 0x61).code.toList = [true] ++ true :: [false]) ∧
    (u.err = false ∧ u.wrCur < u.bufBits ∧
      u.wrCur + [true, false, true, true, false, false, true, false].length + 1 = (1 + 1) * u.bufBits ∧
      u.sinkPlan = List.replicate (1 * u.params.blockBytes + 0) .accept ++ .zeroTransfer :: [] ∧
      u.bc.toList = [true, false, true, true, false, false, true, false] ++ true :: []) := by
  decide +kernel

theorem test_hyp_FlushSendsThePendingBits :
    (base.err = false ∧ base.wrCur < base.bufBits ∧ base.sinkPlan = []) ∧ (busy.err = false ∧ busy.wrCur < busy.bufBits) ∧
    (∃ t, ({ busy with sinkPlan := [.zeroTransfer] } : State).sinkWrite
      (({ busy with sinkPlan := [.zeroTransfer] } : State).bufBytes ((busy.wrCur + 7) / 8)) = some (0, t)) :=
  ⟨by decide +kernel, by decide +kernel, sinkWrite_of_accepts (by decide +kernel)⟩

/-- The tree of oneTree: 0 leads to 'b', 1 to 'a'. -/
theorem test_hyp_DecSymFollowsTheBits :
    (leafRoot.valid leafRoot.root = true ∧ leafRoot.treeAt leafRoot.root = some (.leaf 0 0x61)) ∧
    oneTree.err = false ∧ oneTree.valid oneTree.root = true ∧
    oneTree.treeAt oneTree.root = some (.node 2 (.leaf 1 0x62) (.leaf 0 0x61)) ∧
    (NodeTree.node 2 (.leaf 1 0x62) (.leaf 0 0x61)).sub [true] = some (.leaf 0 0x61) ∧
    ((withSource oneTree [0xFF]).readsBits [true]).isSome = true ∧
    (NodeTree.node 2 (.leaf 1 0x62) (.leaf 0 0x61)).sub [] = some (.node 2 (.leaf 1 0x62) (.leaf 0 0x61)) ∧
    endsAfter oneTree [] = true := by
  decide +kernel

/-- Two symbols 'a' 'b' are spelt by the bits 1 0; a leaf root with HDR_FSIZE = 1. -/
theorem test_hyp_DecodeWritesTheDeclaredSymbols :
    let tr : NodeTree := .node 2 (.leaf 1 0x62) (.leaf 0 0x61)
    let s : State := { withSource oneTree [0x01] with hdrFsize := 2, sinkPlan := [.accept] }
    let d : State := { leafRoot with hdrFsize := 1 }
    (s.err = false ∧ s.valid s.root = true ∧ s.treeAt s.root = some tr) ∧ oneTree.hdrFsize = 0 ∧
    (d.err = false ∧ d.valid d.root = true ∧ d.treeAt d.root = some (.leaf 0 0x61) ∧ d.hdrFsize ≠ 0) ∧
    (tr.height ≠ 0 ∧ ([0x61, 0x62] : List Sym).length = s.hdrFsize.toNat ∧ (∀ e ∈ s.sinkPlan.take 2, e = .accept) ∧
      tr.sub [true] = some (.leaf 0 0x61) ∧ tr.sub [false] = some (.leaf 1 0x62) ∧
      (s.readsBits ([[true], [false]] : List (List Bool)).flatten).isSome = true) ∧
    (([] : List Sym).length < s.hdrFsize.toNat ∧ tr.sub [] = some tr ∧ endsAfter { s with source := [] } [] = true) ∧
    ([.accept, .zeroTransfer] : List SinkEvent) = List.replicate [(0x61 : Sym)].length .accept ++ .zeroTransfer :: [] := by
  decide +kernel

end Sys2Proof.Tests
end

section
/-! SUPPORT. One response per command (spec/00_scope.md R10, spec/60_exceptions.md R352, R353). -/

namespace Sys2Proof.Machine

/-- Settles O7: `perform` runs what the command decodes to. -/
theorem stepRunsTheDecodedCommand : Obligations.StepRunsTheDecodedCommand := by
  unfold Obligations.StepRunsTheDecodedCommand
  intro s c rest i hport hdecode
  simp only [step, hport, State.perform, hdecode]

/-- From s to u no command was taken from the port, no response was returned and the error halt was neither entered nor left. -/
structure State.Silent (s u : State) : Prop where
  port  : u.port = s.port
  resps : u.resps = s.resps
  err   : u.err = s.err

/-- A command on s with the outcome r returns exactly one response, which outside the error halt is the one stored. -/
def State.AnswersOnce (s : State) (r : Result) : Prop :=
  ∀ t, r = .next t → t.port = s.port ∧ ∃ a, t.resps = s.resps ++ [a] ∧ (s.err = false → a = ⟨t.code, t.result⟩)

theorem State.Silent.trans {s u v : State} (h : s.Silent u) (h' : u.Silent v) : s.Silent v :=
  ⟨h'.port.trans h.port, h'.resps.trans h.resps, h'.err.trans h.err⟩

/-! ## Operations that return nothing -/

theorem silent_makeLeaf (s : State) (x : Sym) (f : Value) : s.Silent (s.makeLeaf x f).2 := by
  rw [makeLeaf_eq]; exact ⟨rfl, rfl, rfl⟩

theorem silent_join (s : State) (l r : NodeIx) : s.Silent (s.join l r).2 := by
  rw [join_eq]; exact ⟨rfl, rfl, rfl⟩

theorem silent_freeTree (s : State) (t : NodeTree) : s.Silent (s.freeTree t) := by
  unfold State.freeTree
  induction t.postorder generalizing s with
  | nil => exact ⟨rfl, rfl, rfl⟩
  | cons n ns ih =>
    have h : s.Silent (s.freeNode n) := by rw [freeNode_eq]; exact ⟨rfl, rfl, rfl⟩
    exact h.trans (ih _)

theorem silent_pqEnqueue {s t : State} {n : NodeIx} (h : s.pqEnqueue n = some t) : s.Silent t := by
  rw [(pqEnqueue_eq h).2]; exact ⟨rfl, rfl, rfl⟩

theorem silent_pqDequeue {s t : State} {n : NodeIx} (h : s.pqDequeue = some (n, t)) : s.Silent t := by
  rw [(pqDequeue_eq h).2.2]; exact ⟨rfl, rfl, rfl⟩

theorem silent_nsPush {s t : State} {n : NodeIx} (h : s.nsPush n = some t) : s.Silent t := by
  rw [(nsPush_eq h).2]; exact ⟨rfl, rfl, rfl⟩

theorem silent_nsPop {s t : State} {n : NodeIx} (h : s.nsPop = some (n, t)) : s.Silent t := by
  rw [(nsPop_eq h).2.2]; exact ⟨rfl, rfl, rfl⟩

theorem silent_sourceRead {s t : State} {n : Nat} {bs : List Byte} (h : s.sourceRead n = some (bs, t)) : s.Silent t := by
  rw [(sourceRead_eq h).2]; exact ⟨rfl, rfl, rfl⟩

theorem silent_sinkWrite {s t : State} {bs : List Byte} {w : Nat} (h : s.sinkWrite bs = some (w, t)) : s.Silent t := by
  rw [sinkWrite_eq h]; exact ⟨rfl, rfl, rfl⟩

theorem silent_readBit_bit {s t : State} {b : Bool} (h : s.readBit = .bit b t) : s.Silent t := by
  rw [readBit_bit h]; exact ⟨rfl, rfl, rfl⟩

theorem silent_readBit_exhausted {s t : State} (h : s.readBit = .exhausted t) : s.Silent t := by
  rw [(readBit_exhausted h).2]; exact ⟨rfl, rfl, rfl⟩

theorem silent_pad (count : Nat) (s : State) (i : Nat) : s.Silent (s.pad i count) := by
  induction count generalizing s i with
  | zero => exact ⟨rfl, rfl, rfl⟩
  | succ count ih =>
    have h : s.Silent { s.setBufBit i (Config.freeBit s.draws) with draws := s.draws + 1 } := ⟨rfl, rfl, rfl⟩
    exact h.trans (ih _ (i + 1))

theorem silent_recordCodes (t : NodeTree) (s : State) (w : BitCode) : s.Silent (s.recordCodes w t) := by
  induction t generalizing s w with
  | leaf n x => exact ⟨rfl, rfl, rfl⟩
  | node n l r ihl ihr => exact (ihl s _).trans (ihr _ _)

theorem silent_enqueueNode (s : State) (n : NodeIx) : s.Silent (s.enqueueNode n) := by
  unfold State.enqueueNode
  cases h : s.pqEnqueue n with
  | none => exact ⟨rfl, rfl, rfl⟩
  | some t => exact silent_pqEnqueue h

theorem silent_dequeueNode (s : State) : s.Silent s.dequeueNode.2 := by
  unfold State.dequeueNode
  cases h : s.pqDequeue with
  | none => exact ⟨rfl, rfl, rfl⟩
  | some p => exact silent_pqDequeue h

theorem silent_pushNode (s : State) (n : NodeIx) : s.Silent (s.pushNode n) := by
  unfold State.pushNode
  cases h : s.nsPush n with
  | none => exact ⟨rfl, rfl, rfl⟩
  | some t => exact silent_nsPush h

theorem silent_popNode (s : State) : s.Silent s.popNode.2 := by
  unfold State.popNode
  cases h : s.nsPop with
  | none => exact ⟨rfl, rfl, rfl⟩
  | some p => exact silent_nsPop h

theorem silent_enqueueLeaves (xs : List Sym) (s : State) : s.Silent (xs.foldl State.enqueueLeaf s) := by
  induction xs generalizing s with
  | nil => exact ⟨rfl, rfl, rfl⟩
  | cons x xs ih => exact ((silent_makeLeaf s x _).trans (silent_enqueueNode _ _)).trans (ih _)

theorem silent_mergeAll (rounds : Nat) (s : State) : s.Silent (s.mergeAll rounds) := by
  induction rounds generalizing s with
  | zero => exact ⟨rfl, rfl, rfl⟩
  | succ rounds ih =>
    have h : s.Silent s.mergeTwo :=
      (((silent_dequeueNode s).trans (silent_dequeueNode _)).trans (silent_join _ _ _)).trans (silent_enqueueNode _ _)
    unfold State.mergeAll
    split
    · exact h.trans (ih _)
    · exact ⟨rfl, rfl, rfl⟩

theorem silent_joinTop (s : State) : s.Silent s.joinTop :=
  (((silent_popNode s).trans (silent_popNode _)).trans (silent_join _ _ _)).trans (silent_pushNode _ _)

theorem silent_pushLeaf (s : State) (x : Sym) : s.Silent (s.pushLeaf x) :=
  (silent_makeLeaf s x _).trans (silent_pushNode _ _)

theorem silent_scanDump (s : State) (bs : List Byte) : s.Silent (s.scanDump bs) := by
  induction s, bs using State.scanDump.induct with
  | case1 s => exact ⟨rfl, rfl, rfl⟩
  | case2 s m => exact silent_joinTop s
  | case3 s x rest ih =>
    rw [State.scanDump, if_pos rfl]
    exact (silent_pushLeaf s x).trans ih
  | case4 s m x rest hm ih =>
    rw [State.scanDump, if_neg hm]
    exact (silent_joinTop s).trans ih

theorem silent_rebuild (s : State) (bs : List Byte) : s.Silent (s.rebuild bs).2 := by
  have h : s.Silent { s with nsCap := bs.length, nsTop := 0 } := ⟨rfl, rfl, rfl⟩
  exact (h.trans (silent_scanDump _ bs)).trans (silent_popNode _)

/-! ## Ways to end a command -/

section
variable {s u : State} {c : Code} {v : Value} {k : Result}

theorem answersOnce_respond (h : s.Silent u) : s.AnswersOnce (.next (u.respond c v)) := by
  rintro t ⟨rfl⟩
  exact ⟨h.port, ⟨c, v⟩, by rw [State.respond_resps, h.resps], fun _ => rfl⟩

theorem answersOnce_raise (h : s.Silent u) : s.AnswersOnce (.next (u.raise c v)) := by
  rintro t ⟨rfl⟩
  exact ⟨h.port, ⟨c, v⟩, by rw [State.raise_resps, h.resps], fun _ => rfl⟩

/-- In the error halt a response is returned without being stored (R354). -/
theorem answersOnce_reply (h : s.err = true) : s.AnswersOnce (.next (s.reply c v)) := by
  rintro t ⟨rfl⟩
  exact ⟨rfl, ⟨c, v⟩, rfl, fun h' => absurd (h.symm.trans h') (by decide)⟩

theorem answersOnce_fault (f : Fault) : s.AnswersOnce (.fault f) := fun t h => by cases h

theorem answersOnce_of_silent (h : s.Silent u) (ha : u.AnswersOnce k) : s.AnswersOnce k := by
  intro t ht
  obtain ⟨hport, a, hresps, hstored⟩ := ha t ht
  exact ⟨hport.trans h.port, a, h.resps ▸ hresps, fun he => hstored (h.err.trans he)⟩

theorem answersOnce_ite {p : Prop} [Decidable p] {k k' : Result} (h : s.AnswersOnce k) (h' : s.AnswersOnce k') :
    s.AnswersOnce (if p then k else k') := by
  split <;> assumption

theorem answersOnce_next_ite {p : Prop} [Decidable p] {u u' : State} (h : s.AnswersOnce (.next u))
    (h' : s.AnswersOnce (.next u')) : s.AnswersOnce (.next (if p then u else u')) := by
  split <;> assumption

theorem answersOnce_unlessHalted (h : s.AnswersOnce k) : s.AnswersOnce (s.unlessHalted k) := by
  cases he : s.err with
  | false => rwa [unlessHalted_running he]
  | true => rw [unlessHalted_halted he]; exact answersOnce_reply he

theorem answersOnce_withNode {n : NodeIx} (h : s.AnswersOnce k) : s.AnswersOnce (s.withNode n k) := by
  cases hv : s.valid n with
  | true => rwa [withNode_valid hv]
  | false => rw [withNode_invalid hv]; exact answersOnce_raise ⟨rfl, rfl, rfl⟩

theorem answersOnce_withTree {n : NodeIx} {k : NodeTree → Result} (h : ∀ t, s.AnswersOnce (k t)) :
    s.AnswersOnce (s.withTree n k) := by
  unfold State.withTree
  split
  · exact h _
  · exact answersOnce_fault _

theorem answersOnce_withBufIndex {i : BitVec 16} (h : s.AnswersOnce (.next u)) :
    s.AnswersOnce (.next (s.withBufIndex i u)) :=
  answersOnce_next_ite (answersOnce_raise ⟨rfl, rfl, rfl⟩) h

theorem answersOnce_sendThenRespond (bs : List Byte) : s.AnswersOnce (s.sendThenRespond bs v) := by
  unfold State.sendThenRespond
  split
  · rename_i h
    have hq := silent_sinkWrite h
    exact answersOnce_next_ite (answersOnce_raise hq) (answersOnce_respond hq)
  · exact answersOnce_fault _

/-- The bits of a code are written without a response, or the first block the sink refuses gives the one response. -/
theorem writeBits_answers (bs : List Bool) (s : State) :
    (∀ t, s.writeBits bs = .done t → s.Silent t) ∧ ∀ t, s.writeBits bs = .raised t → s.AnswersOnce (.next t) := by
  induction bs generalizing s with
  | nil => exact ⟨fun t h => by cases h; exact ⟨rfl, rfl, rfl⟩, fun t h => by cases h⟩
  | cons b bs ih =>
    cases hb : s.writeBit b with
    | done u =>
      have hq : s.Silent u := by rw [(writeBit_done hb).2]; exact ⟨rfl, rfl, rfl⟩
      simp only [State.writeBits, hb]
      exact ⟨fun t h => hq.trans ((ih u).1 t h), fun t h => answersOnce_of_silent hq ((ih u).2 t h)⟩
    | raised u =>
      obtain ⟨w, plan, sink, -, rfl⟩ := writeBit_raised hb
      simp only [State.writeBits, hb]
      exact ⟨fun t h => (by cases h), fun t h => by cases h; exact answersOnce_raise ⟨rfl, rfl, rfl⟩⟩
    | never =>
      simp only [State.writeBits, hb]
      exact ⟨fun t h => (by cases h), fun t h => by cases h⟩

theorem answersOnce_writeThenRespond (c : BitCode) : s.AnswersOnce (s.writeThenRespond c) := by
  unfold State.writeThenRespond
  split
  · rename_i h
    exact answersOnce_respond ((writeBits_answers _ s).1 _ h)
  · rename_i h
    exact (writeBits_answers _ s).2 _ h
  · exact answersOnce_fault _

/-- decode_symbol only reads, whether it ends in a symbol or in exhaustion. -/
theorem silent_decodeSymbol (tr : NodeTree) (s : State) (j : Nat) :
    (∀ x t, s.decodeSymbol tr j = .symbol x t → s.Silent t) ∧ ∀ i t, s.decodeSymbol tr j = .exhausted i t → s.Silent t := by
  induction tr generalizing s j with
  | leaf n x => exact ⟨fun y t h => by cases h; exact ⟨rfl, rfl, rfl⟩, fun i t h => by cases h⟩
  | node n l r ihl ihr =>
    cases hb : s.readBit with
    | exhausted u =>
      simp only [State.decodeSymbol, hb]
      exact ⟨fun x t h => (by cases h), fun i t h => by cases h; exact silent_readBit_exhausted hb⟩
    | never =>
      simp only [State.decodeSymbol, hb]
      exact ⟨fun x t h => (by cases h), fun i t h => by cases h⟩
    | bit b u =>
      have hq := silent_readBit_bit hb
      cases b <;> simp only [State.decodeSymbol, hb]
      · exact ⟨fun x t h => hq.trans ((ihl u _).1 x t h), fun i t h => hq.trans ((ihl u _).2 i t h)⟩
      · exact ⟨fun x t h => hq.trans ((ihr u _).1 x t h), fun i t h => hq.trans ((ihr u _).2 i t h)⟩

theorem answersOnce_decodeLoop (tr : NodeTree) (left : Nat) (s : State) (k : Nat) :
    s.AnswersOnce (s.decodeLoop tr left k) := by
  induction left generalizing s k with
  | zero => exact answersOnce_respond ⟨rfl, rfl, rfl⟩
  | succ left ih =>
    unfold State.decodeLoop
    split
    · rename_i h
      exact answersOnce_raise ((silent_decodeSymbol tr s 0).2 _ _ h)
    · exact answersOnce_fault _
    · rename_i x u h
      split
      · exact answersOnce_fault _
      · rename_i w u' hw
        have hq := ((silent_decodeSymbol tr s 0).1 _ _ h).trans (silent_sinkWrite hw)
        exact answersOnce_ite (answersOnce_raise hq) (answersOnce_of_silent hq (ih u' _))

end

/-! ## The commands -/

theorem execRegRead_answersOnce (r : BitVec 16) (s : State) : s.AnswersOnce (execRegRead r s) := by
  have h : s.Silent s := ⟨rfl, rfl, rfl⟩
  unfold execRegRead
  cases he : s.err <;> split
  · exact answersOnce_respond h
  · exact answersOnce_raise h
  · exact answersOnce_reply he
  · exact answersOnce_reply he

theorem execRegWrite_answersOnce (r : BitVec 16) (v : BitVec 64) (s : State) : s.AnswersOnce (execRegWrite r v s) := by
  have h : s.Silent s := ⟨rfl, rfl, rfl⟩
  refine answersOnce_unlessHalted ?_
  split
  · exact answersOnce_next_ite (answersOnce_raise h) (answersOnce_respond ⟨rfl, rfl, rfl⟩)
  · exact answersOnce_next_ite (answersOnce_raise h) (answersOnce_respond ⟨rfl, rfl, rfl⟩)
  · exact answersOnce_respond ⟨rfl, rfl, rfl⟩
  · exact answersOnce_next_ite (answersOnce_respond ⟨rfl, rfl, rfl⟩) (answersOnce_raise h)
  · exact answersOnce_raise h

theorem execReset_answersOnce (s : State) : s.AnswersOnce (execReset s) := by
  rintro t ⟨rfl⟩
  exact ⟨rfl, ⟨.ok, 0⟩, rfl, fun _ => rfl⟩

theorem execBcPush_answersOnce (bit : Bool) (s : State) : s.AnswersOnce (execBcPush bit s) := by
  refine answersOnce_unlessHalted ?_
  split <;> exact answersOnce_respond ⟨rfl, rfl, rfl⟩

theorem execBcPop_answersOnce (s : State) : s.AnswersOnce (execBcPop s) := by
  refine answersOnce_unlessHalted ?_
  split <;> exact answersOnce_respond ⟨rfl, rfl, rfl⟩

theorem execPqEnq_answersOnce (n : NodeIx) (s : State) : s.AnswersOnce (execPqEnq n s) := by
  refine answersOnce_unlessHalted (answersOnce_withNode ?_)
  split
  · rename_i h; exact answersOnce_respond (silent_pqEnqueue h)
  · exact answersOnce_respond ⟨rfl, rfl, rfl⟩

theorem execPqDeq_answersOnce (s : State) : s.AnswersOnce (execPqDeq s) := by
  refine answersOnce_unlessHalted ?_
  split
  · rename_i h; exact answersOnce_respond (silent_pqDequeue h)
  · exact answersOnce_respond ⟨rfl, rfl, rfl⟩

theorem execNsPush_answersOnce (n : NodeIx) (s : State) : s.AnswersOnce (execNsPush n s) := by
  refine answersOnce_unlessHalted (answersOnce_withNode ?_)
  split
  · rename_i h; exact answersOnce_respond (silent_nsPush h)
  · exact answersOnce_respond ⟨rfl, rfl, rfl⟩

theorem execNsPop_answersOnce (s : State) : s.AnswersOnce (execNsPop s) := by
  refine answersOnce_unlessHalted ?_
  split
  · rename_i h; exact answersOnce_respond (silent_nsPop h)
  · exact answersOnce_respond ⟨rfl, rfl, rfl⟩

theorem execNodeJoin_answersOnce (l r : NodeIx) (s : State) : s.AnswersOnce (execNodeJoin l r s) := by
  have h : s.Silent s := ⟨rfl, rfl, rfl⟩
  exact answersOnce_unlessHalted <| answersOnce_withNode <| answersOnce_withNode <|
    answersOnce_next_ite (answersOnce_raise h) <| answersOnce_next_ite (answersOnce_raise h) <|
    answersOnce_next_ite (answersOnce_raise h) <| answersOnce_next_ite (answersOnce_respond h) <|
    answersOnce_respond (silent_join s l r)

theorem execNodeRead_answersOnce (f : BitVec 8) (n : NodeIx) (s : State) : s.AnswersOnce (execNodeRead f n s) := by
  refine answersOnce_unlessHalted ?_
  split
  · exact answersOnce_raise ⟨rfl, rfl, rfl⟩
  · exact answersOnce_withNode (answersOnce_respond ⟨rfl, rfl, rfl⟩)

theorem execBuild_answersOnce (s : State) : s.AnswersOnce (execBuild s) := by
  have h : s.Silent s := ⟨rfl, rfl, rfl⟩
  have h₁ : s.Silent { s with pqHead := 0, pqTail := 0 } := ⟨rfl, rfl, rfl⟩
  have h₂ := ((h₁.trans (silent_enqueueLeaves s.histSymbols _)).trans (silent_mergeAll pqN _)).trans (silent_dequeueNode _)
  exact answersOnce_unlessHalted <| answersOnce_next_ite (answersOnce_raise h) <|
    answersOnce_next_ite (answersOnce_raise h) <| answersOnce_respond ⟨h₂.port, h₂.resps, h₂.err⟩

theorem execDeserialize_answersOnce (s : State) : s.AnswersOnce (execDeserialize s) := by
  refine answersOnce_unlessHalted (answersOnce_ite (answersOnce_raise ⟨rfl, rfl, rfl⟩) ?_)
  split
  · exact answersOnce_fault _
  · rename_i bs u hread
    have h := silent_sourceRead hread
    have h₂ := h.trans (silent_rebuild u bs)
    refine answersOnce_next_ite (answersOnce_raise h) ?_
    split
    · exact answersOnce_raise h
    · exact answersOnce_next_ite (answersOnce_raise h) (answersOnce_respond ⟨h₂.port, h₂.resps, h₂.err⟩)

theorem execReadBit_answersOnce (s : State) : s.AnswersOnce (execReadBit s) := by
  refine answersOnce_unlessHalted ?_
  split
  · rename_i h; exact answersOnce_respond (silent_readBit_bit h)
  · rename_i h; exact answersOnce_respond (silent_readBit_exhausted h)
  · exact answersOnce_fault _

theorem execFlush_answersOnce (s : State) : s.AnswersOnce (execFlush s) := by
  refine answersOnce_unlessHalted ?_
  dsimp only
  split
  · exact answersOnce_fault _
  · rename_i h
    have h' := (silent_pad _ s _).trans (silent_sinkWrite h)
    exact answersOnce_next_ite (answersOnce_raise ⟨h'.port, h'.resps, h'.err⟩)
      (answersOnce_respond ⟨h'.port, h'.resps, h'.err⟩)

theorem execDecSym_answersOnce (s : State) : s.AnswersOnce (execDecSym s) := by
  refine answersOnce_unlessHalted <| answersOnce_withNode <| answersOnce_ite (answersOnce_raise ⟨rfl, rfl, rfl⟩) <|
    answersOnce_withTree fun tr => ?_
  split
  · rename_i h; exact answersOnce_respond ((silent_decodeSymbol tr s 0).1 _ _ h)
  · rename_i h; exact answersOnce_raise ((silent_decodeSymbol tr s 0).2 _ _ h)
  · exact answersOnce_fault _

theorem execHdrRead_answersOnce (s : State) : s.AnswersOnce (execHdrRead s) := by
  refine answersOnce_unlessHalted ?_
  split
  · exact answersOnce_fault _
  · rename_i h
    have h' := silent_sourceRead h
    exact answersOnce_next_ite (answersOnce_raise h') <| answersOnce_next_ite (answersOnce_raise h') <|
      answersOnce_respond ⟨h'.port, h'.resps, h'.err⟩

/-- Every instruction returns exactly one response, from every state. -/
theorem exec_answersOnce (i : Instr) (s : State) : s.AnswersOnce (exec i s) := by
  have h : s.Silent s := ⟨rfl, rfl, rfl⟩
  cases i with
  | reset => exact execReset_answersOnce s
  | regRead r => exact execRegRead_answersOnce r s
  | regWrite r v => exact execRegWrite_answersOnce r v s
  | bcPush bit => exact execBcPush_answersOnce bit s
  | bcPop => exact execBcPop_answersOnce s
  | pqEnq n => exact execPqEnq_answersOnce n s
  | pqDeq => exact execPqDeq_answersOnce s
  | nsPush n => exact execNsPush_answersOnce n s
  | nsPop => exact execNsPop_answersOnce s
  | nodeJoin l r => exact execNodeJoin_answersOnce l r s
  | nodeRead f n => exact execNodeRead_answersOnce f n s
  | build => exact execBuild_answersOnce s
  | deserialize => exact execDeserialize_answersOnce s
  | readBit => exact execReadBit_answersOnce s
  | flush => exact execFlush_answersOnce s
  | decSym => exact execDecSym_answersOnce s
  | hdrRead => exact execHdrRead_answersOnce s
  | nop | bcSize | bcIsEmpty | bcIsFull | pqSize | pqIsEmpty | pqIsFull | nsSize | histGet x | ctLen x =>
    exact answersOnce_unlessHalted (answersOnce_respond h)
  | bcClear | pqClear | histClear | histSet x c | histAdd x c | bsReset =>
    exact answersOnce_unlessHalted (answersOnce_respond ⟨rfl, rfl, rfl⟩)
  | setBit k | clrBit k | getBit k =>
    exact answersOnce_unlessHalted (answersOnce_withBufIndex (answersOnce_respond ⟨rfl, rfl, rfl⟩))
  | bcRender | hdrWrite => exact answersOnce_unlessHalted (answersOnce_sendThenRespond _)
  | writeBc => exact answersOnce_unlessHalted (answersOnce_writeThenRespond _)
  | nsInit c =>
    exact answersOnce_unlessHalted (answersOnce_next_ite (answersOnce_raise h) (answersOnce_respond ⟨rfl, rfl, rfl⟩))
  | nodeLeaf x f =>
    exact answersOnce_unlessHalted (answersOnce_next_ite (answersOnce_respond h) (answersOnce_respond (silent_makeLeaf s x f)))
  | release n =>
    exact answersOnce_unlessHalted <| answersOnce_withNode <| answersOnce_ite (answersOnce_raise h) <|
      answersOnce_withTree fun tr => answersOnce_respond (silent_freeTree s tr)
  | codeTable =>
    have h : s.Silent s.invalidateCt := ⟨rfl, rfl, rfl⟩
    exact answersOnce_unlessHalted <| answersOnce_withNode <| answersOnce_withTree fun tr =>
      answersOnce_respond (h.trans (silent_recordCodes tr _ BitCode.empty))
  | serialize =>
    exact answersOnce_unlessHalted <| answersOnce_withNode <| answersOnce_withTree fun tr => answersOnce_sendThenRespond _
  | ctBit x k =>
    exact answersOnce_unlessHalted <| answersOnce_next_ite (answersOnce_raise h) <|
      answersOnce_next_ite (answersOnce_raise h) (answersOnce_respond h)
  | ctLoadBc x =>
    exact answersOnce_unlessHalted (answersOnce_next_ite (answersOnce_raise h) (answersOnce_respond ⟨rfl, rfl, rfl⟩))
  | writeCode x =>
    exact answersOnce_unlessHalted (answersOnce_ite (answersOnce_raise h) (answersOnce_writeThenRespond _))
  | decodeAll =>
    exact answersOnce_unlessHalted <| answersOnce_withNode <| answersOnce_ite (answersOnce_respond h) <|
      answersOnce_ite (answersOnce_raise h) <| answersOnce_withTree fun tr => answersOnce_decodeLoop tr _ s 0

/-- A command that fails the encoding checks is answered once too. -/
theorem refuseCommand_answersOnce (s : State) (c : Command) : s.AnswersOnce (.next (s.refuseCommand c)) := by
  unfold State.refuseCommand
  split
  · rename_i he; exact answersOnce_reply he
  · exact answersOnce_raise ⟨rfl, rfl, rfl⟩

theorem perform_answersOnce (s : State) (c : Command) : s.AnswersOnce (s.perform c) := by
  unfold State.perform
  split
  · exact exec_answersOnce _ s
  · exact refuseCommand_answersOnce s c
  · exact refuseCommand_answersOnce s c

/-- Settles O16: taking the command off the port returns nothing, and performing it answers once. -/
theorem everyCommandAnswersOnce : Obligations.EveryCommandAnswersOnce := by
  unfold Obligations.EveryCommandAnswersOnce
  intro s t c rest hport hstep
  simp only [step, hport] at hstep
  exact perform_answersOnce { s with port := rest } c t hstep

end Sys2Proof.Machine
end

section
/-! SUPPORT. The arena while a command grows trees in it: slots after a store, a new leaf and a join (spec/44_tree.md R240 to
R242), and what the slots of a tree grown from free slots hold. -/

namespace Sys2Proof.Machine

/-! ## Slots -/

theorem slot?_of_arena_eq {s u : State} (h : u.arena = s.arena) (n : NodeIx) : u.slot? n = s.slot? n := by
  simp only [State.slot?, h]

theorem freeSlots_of_arena_eq {s u : State} (h : u.arena = s.arena) : u.freeSlots = s.freeSlots := by
  simp only [State.freeSlots, h]

section
variable {s : State} {n : NodeIx} {nd : Node}

theorem node_of_slot? (h : s.slot? n = some nd) : s.node n = nd := by simp [State.node, h]

theorem valid_of_slot? (h : s.slot? n = some nd) : s.valid n = nd.valid := by simp [State.valid, h]

theorem lt_of_slot? (h : s.slot? n = some nd) : n.toNat < nodeCap := (slot?_isSome_iff s n).1 (by simp [h])

theorem slot?_of_lt (h : n.toNat < nodeCap) : s.slot? n = some (s.node n) := by
  obtain ⟨nd, hnd⟩ := Option.isSome_iff_exists.1 ((slot?_isSome_iff s n).2 h)
  rw [node_of_slot? hnd, hnd]

theorem ne_null_of_lt (h : n.toNat < nodeCap) : n ≠ nullNode := by
  rintro rfl
  exact absurd h (by decide)

end

/-- Adopting a node sets the mark in its own slot only. -/
theorem slot?_adopt (s : State) (n m : NodeIx) :
    (s.adopt n).slot? m = if m = n then (s.slot? n).map ({ · with hasParent := true }) else s.slot? m := by
  unfold State.adopt
  rw [slot?_setNode]
  by_cases hn : n.toNat < nodeCap
  · simp [hn, slot?_of_lt hn]
  · have hnone : s.slot? n = none := by simp [State.slot?, hn]
    by_cases hm : m = n
    · simp [hm, hn, hnone]
    · simp [hm]

/-- Storing a slot changes the number of free slots by its own two states. -/
theorem freeSlots_setNode (s : State) {n : NodeIx} (nd : Node) (hn : n.toNat < nodeCap) :
    (s.setNode n nd).freeSlots + (if s.valid n then 0 else 1) = s.freeSlots + (if nd.valid then 0 else 1) := by
  have hlen : n.toNat < s.arena.toList.length := by simpa using hn
  have hvalid : s.valid n = (s.arena.toList[n.toNat]).valid := by simp [State.valid, State.slot?, hn]
  have hset : (s.setNode n nd).arena.toList = s.arena.toList.set n.toNat nd := by
    simp only [State.setNode, hn, dite_true, Vector.toList_set]
  have hcount := List.countP_set (p := fun nd : Node => !nd.valid) (a := nd) hlen
  have hpos : (!(s.arena.toList[n.toNat]).valid) = true → 0 < s.arena.toList.countP (fun nd => !nd.valid) := fun h =>
    List.countP_pos_iff.2 ⟨_, List.getElem_mem hlen, h⟩
  unfold State.freeSlots
  rw [hset, hcount, hvalid]
  cases h : (s.arena.toList[n.toNat]).valid <;> cases h' : nd.valid <;>
    simp only [h, Bool.not_true, Bool.not_false, if_true, if_false, Bool.false_eq_true, true_implies] at hpos ⊢ <;> omega

theorem freeSlots_adopt {s : State} {n : NodeIx} (hv : s.valid n = true) : (s.adopt n).freeSlots = s.freeSlots := by
  obtain ⟨nd, hnd, hval⟩ := (valid_iff s n).1 hv
  have h := freeSlots_setNode s { s.node n with hasParent := true } (lt_of_slot? hnd)
  simpa [State.adopt, hv, node_of_slot? hnd, hval] using h

/-- Storing a live node in the slot `alloc` answers. -/
theorem freeSlots_setNode_alloc {s : State} (h : 0 < s.freeSlots) {nd : Node} (hnd : nd.valid = true) :
    (s.setNode s.alloc nd).freeSlots + 1 = s.freeSlots := by
  obtain ⟨hlt, hfree, -⟩ := alloc_lowestFree h
  have h := freeSlots_setNode s nd hlt
  simpa [hfree, hnd] using h

theorem slot?_setNode_alloc {s : State} (h : 0 < s.freeSlots) (nd : Node) (m : NodeIx) :
    (s.setNode s.alloc nd).slot? m = if m = s.alloc then some nd else s.slot? m := by
  simp [slot?_setNode, (alloc_lowestFree h).1]

theorem valid_adopt (s : State) (n m : NodeIx) : (s.adopt n).valid m = s.valid m := by
  unfold State.valid
  rw [slot?_adopt]
  by_cases hm : m = n
  · subst hm; cases s.slot? m <;> simp
  · rw [if_neg hm]

/-- A join stores the new node's slot and marks the two children (R242). -/
theorem join_eq_adopt (s : State) (l r : NodeIx) :
    (s.join l r).2 =
      ((s.setNode s.alloc ⟨true, placeholderSym, (s.node l).freq + (s.node r).freq, l, r, false⟩).adopt l).adopt r := rfl

section
variable {s : State} {l r : NodeIx}

theorem slot?_join_new (h : 0 < s.freeSlots) (hl : l ≠ s.alloc) (hr : r ≠ s.alloc) :
    (s.join l r).2.slot? s.alloc = some ⟨true, placeholderSym, (s.node l).freq + (s.node r).freq, l, r, false⟩ := by
  rw [join_eq_adopt, slot?_adopt, if_neg hr.symm, slot?_adopt, if_neg hl.symm, slot?_setNode_alloc h, if_pos rfl]

theorem slot?_join_other (h : 0 < s.freeSlots) {m : NodeIx} (hm : m ≠ s.alloc) (hl : m ≠ l) (hr : m ≠ r) :
    (s.join l r).2.slot? m = s.slot? m := by
  rw [join_eq_adopt, slot?_adopt, if_neg hr, slot?_adopt, if_neg hl, slot?_setNode_alloc h, if_neg hm]

theorem freeSlots_join (h : 0 < s.freeSlots) (hl : s.valid l = true) (hr : s.valid r = true) :
    (s.join l r).2.freeSlots + 1 = s.freeSlots := by
  have hvalid : ∀ m nd, s.valid m = true → (s.setNode s.alloc nd).valid m = true := by
    intro m nd hm
    have hne : m ≠ s.alloc := fun e => by simp [e, (alloc_lowestFree h).2.1] at hm
    rwa [State.valid, slot?_setNode_alloc h, if_neg hne]
  rw [join_eq_adopt, freeSlots_adopt ((valid_adopt _ _ _).trans (hvalid r _ hr)), freeSlots_adopt (hvalid l _ hl),
    freeSlots_setNode_alloc h rfl]

end

/-! ## A tree held in the arena -/

/-- The index of a tree's root. -/
def NodeTree.root : NodeTree → NodeIx
  | .leaf n _ => n
  | .node n _ _ => n

/-- The frequency of a tree whose leaves have the frequencies w: sums wrap modulo 2^64 (R242). -/
def NodeTree.weight (w : Sym → Value) : NodeTree → Value
  | .leaf _ x => w x
  | .node _ l r => l.weight w + r.weight w

/-- The arena holds the tree: every slot has the fields `make_leaf` and `join` give it (R241, R242), and all nodes but the root
are marked as having a parent; the root's mark is hp. -/
def State.Holds (s : State) (w : Sym → Value) (hp : Bool) : NodeTree → Prop
  | .leaf n x => s.slot? n = some ⟨true, x, w x, nullNode, nullNode, hp⟩
  | .node n l r =>
    s.slot? n = some ⟨true, placeholderSym, l.weight w + r.weight w, l.root, r.root, hp⟩ ∧
    s.Holds w true l ∧ s.Holds w true r

@[simp] theorem NodeTree.root_leaf (n : NodeIx) (x : Sym) : (NodeTree.leaf n x).root = n := rfl
@[simp] theorem NodeTree.root_node (n : NodeIx) (l r : NodeTree) : (NodeTree.node n l r).root = n := rfl

theorem NodeTree.root_mem_postorder (t : NodeTree) : t.root ∈ t.postorder := by
  cases t <;> simp [NodeTree.postorder]

theorem NodeTree.height_lt_length_postorder (t : NodeTree) : t.height < t.postorder.length := by
  induction t with
  | leaf n x => simp [NodeTree.height, NodeTree.postorder]
  | node n l r ihl ihr => simp only [NodeTree.height, NodeTree.postorder, List.length_append, List.length_singleton]; omega

theorem NodeTree.leafCount_pos (t : NodeTree) : 0 < t.leafCount := by
  induction t with
  | leaf n x => exact Nat.one_pos
  | node n l r ihl ihr => simp only [NodeTree.leafCount]; omega

theorem NodeTree.length_postorder (t : NodeTree) : t.postorder.length = 2 * t.leafCount - 1 := by
  induction t with
  | leaf n x => rfl
  | node n l r ihl ihr =>
    have := l.leafCount_pos
    have := r.leafCount_pos
    simp only [NodeTree.postorder, NodeTree.leafCount, List.length_append, List.length_singleton, ihl, ihr]; omega

theorem NodeTree.length_symbols (t : NodeTree) : t.symbols.length = t.leafCount := by
  induction t with
  | leaf n x => rfl
  | node n l r ihl ihr => simp only [NodeTree.symbols, NodeTree.leafCount, List.length_append, ihl, ihr]

theorem NodeTree.weight_eq_sum (w : Sym → Value) (t : NodeTree) : t.weight w = (t.symbols.map w).sum := by
  induction t with
  | leaf n x => simp [NodeTree.weight, NodeTree.symbols]
  | node n l r ihl ihr => simp [NodeTree.weight, NodeTree.symbols, ihl, ihr]

section
variable {s u : State} {w : Sym → Value} {hp : Bool} {t : NodeTree}

/-- Holding a tree is a matter of the tree's own slots. -/
theorem State.Holds.congr (hs : ∀ n ∈ t.postorder, u.slot? n = s.slot? n) (h : s.Holds w hp t) : u.Holds w hp t := by
  induction t generalizing hp with
  | leaf n x => exact (hs n (by simp [NodeTree.postorder])).trans h
  | node n l r ihl ihr =>
    simp only [NodeTree.postorder, List.mem_append, List.mem_singleton] at hs
    obtain ⟨hn, hl, hr⟩ := h
    exact ⟨(hs n (.inr rfl)).trans hn, ihl (fun m hm => hs m (.inl (.inl hm))) hl,
      ihr (fun m hm => hs m (.inl (.inr hm))) hr⟩

/-- The root's slot. -/
theorem State.Holds.root_slot (h : s.Holds w hp t) :
    ∃ nd, s.slot? t.root = some nd ∧ nd.valid = true ∧ nd.freq = t.weight w ∧ nd.hasParent = hp := by
  cases t with
  | leaf n x => exact ⟨_, h, rfl, rfl, rfl⟩
  | node n l r => exact ⟨_, h.1, rfl, rfl, rfl⟩

theorem State.Holds.root_freq (h : s.Holds w hp t) : (s.node t.root).freq = t.weight w := by
  obtain ⟨nd, hnd, -, hfreq, -⟩ := h.root_slot
  rw [node_of_slot? hnd, hfreq]

theorem State.Holds.root_hasParent (h : s.Holds w hp t) : (s.node t.root).hasParent = hp := by
  obtain ⟨nd, hnd, -, -, hpar⟩ := h.root_slot
  rw [node_of_slot? hnd, hpar]

/-- Every node of a held tree is the root of a held tree, the tree itself or one below it. -/
theorem State.Holds.subtree {n : NodeIx} (h : s.Holds w hp t) (hn : n ∈ t.postorder) :
    ∃ t', t'.root = n ∧ (t' = t ∨ s.Holds w true t') ∧ ∃ hp', s.Holds w hp' t' := by
  induction t generalizing hp with
  | leaf m x =>
    obtain rfl : n = m := by simpa [NodeTree.postorder] using hn
    exact ⟨_, rfl, .inl rfl, hp, h⟩
  | node m l r ihl ihr =>
    have below : ∀ t', t' = l ∨ t' = r → s.Holds w true t' := by
      rintro t' (rfl | rfl)
      · exact h.2.1
      · exact h.2.2
    simp only [NodeTree.postorder, List.mem_append, List.mem_singleton] at hn
    obtain (hn | hn) | rfl := hn
    · obtain ⟨t', hroot, ht', hheld⟩ := ihl h.2.1 hn
      exact ⟨t', hroot, .inr (ht'.elim (fun e => below t' (.inl e)) id), hheld⟩
    · obtain ⟨t', hroot, ht', hheld⟩ := ihr h.2.2 hn
      exact ⟨t', hroot, .inr (ht'.elim (fun e => below t' (.inr e)) id), hheld⟩
    · exact ⟨_, rfl, .inl rfl, hp, h⟩

theorem State.Holds.valid {n : NodeIx} (h : s.Holds w hp t) (hn : n ∈ t.postorder) : s.valid n = true := by
  obtain ⟨t', rfl, -, hp', ht'⟩ := h.subtree hn
  obtain ⟨nd, hnd, hval, -⟩ := ht'.root_slot
  rw [valid_of_slot? hnd, hval]

theorem State.Holds.lt {n : NodeIx} (h : s.Holds w hp t) (hn : n ∈ t.postorder) : n.toNat < nodeCap := by
  obtain ⟨nd, hnd, -⟩ := (valid_iff s n).1 (h.valid hn)
  exact lt_of_slot? hnd

/-- Every node but the root has a parent. -/
theorem State.Holds.hasParent {n : NodeIx} (h : s.Holds w false t) (hn : n ∈ t.postorder) :
    (s.node n).hasParent = decide (n ≠ t.root) := by
  by_cases hroot : n = t.root
  · rw [hroot, h.root_hasParent]; simp
  · obtain ⟨t', rfl, ht', -⟩ := h.subtree hn
    have : s.Holds w true t' := ht'.resolve_left fun e => hroot (e ▸ rfl)
    rw [this.root_hasParent]; simp [hroot]

/-- A leaf of the tree has the frequency of its symbol. -/
theorem State.Holds.leaf_freq {n : NodeIx} (h : s.Holds w hp t) (hn : n ∈ t.postorder) (hleaf : (s.node n).isLeaf = true) :
    (s.node n).freq = w (s.node n).sym := by
  obtain ⟨t', rfl, -, hp', ht'⟩ := h.subtree hn
  cases t' with
  | leaf m x => rw [NodeTree.root_leaf, node_of_slot? ht']
  | node m l r =>
    obtain ⟨hm, hl, -⟩ := ht'
    have hne := ne_null_of_lt (hl.lt l.root_mem_postorder)
    simp [node_of_slot? hm, Node.isLeaf, hne] at hleaf

/-- An internal node has the placeholder symbol and the sum of its children's frequencies. -/
theorem State.Holds.joined {n : NodeIx} (h : s.Holds w hp t) (hn : n ∈ t.postorder) (hleaf : (s.node n).isLeaf = false) :
    (s.node n).sym = placeholderSym ∧
    (s.node n).freq = (s.node (s.node n).left).freq + (s.node (s.node n).right).freq := by
  obtain ⟨t', rfl, -, hp', ht'⟩ := h.subtree hn
  cases t' with
  | leaf m x => simp [node_of_slot? ht', Node.isLeaf] at hleaf
  | node m l r =>
    obtain ⟨hm, hl, hr⟩ := ht'
    rw [NodeTree.root_node, node_of_slot? hm]
    exact ⟨rfl, by rw [hl.root_freq, hr.root_freq]⟩

/-- The walk of `treeAt` finds a held tree, given fuel for its height. -/
theorem State.Holds.treeBelow {fuel : Nat} (h : s.Holds w hp t) (hfuel : t.height < fuel) : s.treeBelow fuel t.root = some t := by
  induction t generalizing hp fuel with
  | leaf n x =>
    obtain ⟨fuel, rfl⟩ : ∃ k, fuel = k + 1 := ⟨fuel - 1, by omega⟩
    have hn : s.slot? n = _ := h
    simp [State.treeBelow, hn, Node.isLeaf]
  | node n l r ihl ihr =>
    obtain ⟨fuel, rfl⟩ : ∃ k, fuel = k + 1 := ⟨fuel - 1, by omega⟩
    simp only [NodeTree.height] at hfuel
    obtain ⟨hn, hl, hr⟩ := h
    have hne := ne_null_of_lt (hl.lt l.root_mem_postorder)
    simp [State.treeBelow, hn, Node.isLeaf, hne, ihl hl (fuel := fuel) (by omega), ihr hr (fuel := fuel) (by omega)]

/-- Distinct slots are at most NODE_CAP, so NODE_CAP nodes of fuel are enough. -/
theorem State.Holds.treeAt (h : s.Holds w hp t) (hd : t.postorder.Nodup) : s.treeAt t.root = some t := by
  have hnodup : (t.postorder.map BitVec.toNat).Nodup := hd.map fun _ _ => BitVec.eq_of_toNat_eq
  have hsub : t.postorder.map BitVec.toNat ⊆ List.range nodeCap := by
    intro k hk
    obtain ⟨n, hn, rfl⟩ := List.mem_map.1 hk
    exact List.mem_range.2 (h.lt hn)
  have hlen : t.postorder.length ≤ nodeCap := by
    simpa using (List.subperm_of_subset hnodup hsub).length_le
  exact h.treeBelow (Nat.lt_of_lt_of_le t.height_lt_length_postorder hlen)

/-- Adopting the root of a held tree marks it as having a parent. -/
theorem State.Holds.adopt_root (h : s.Holds w hp t) (hd : t.postorder.Nodup) : (s.adopt t.root).Holds w true t := by
  cases t with
  | leaf n x =>
    have hn : s.slot? n = _ := h
    simp [State.Holds, slot?_adopt, hn]
  | node n l r =>
    obtain ⟨hn, hl, hr⟩ := h
    simp only [NodeTree.postorder, List.nodup_append, List.mem_append, List.mem_singleton] at hd
    obtain ⟨-, -, hout⟩ := hd
    refine ⟨by simp [slot?_adopt, hn], hl.congr fun m hm => ?_, hr.congr fun m hm => ?_⟩
    · rw [slot?_adopt, NodeTree.root_node, if_neg (hout m (.inl hm) n rfl)]
    · rw [slot?_adopt, NodeTree.root_node, if_neg (hout m (.inr hm) n rfl)]

theorem State.Holds.adopt_other {n : NodeIx} (h : s.Holds w hp t) (hn : n ∉ t.postorder) : (s.adopt n).Holds w hp t :=
  h.congr fun m hm => by rw [slot?_adopt, if_neg (ne_of_mem_of_not_mem hm hn)]

/-- Joining two held trees holds the tree of both. -/
theorem State.Holds.join {l r : NodeTree} (hfree : 0 < s.freeSlots) (hl : s.Holds w false l) (hr : s.Holds w false r)
    (hd : (l.postorder ++ r.postorder).Nodup) : (s.join l.root r.root).2.Holds w false (.node s.alloc l r) := by
  have hf : s.valid s.alloc = false := (alloc_lowestFree hfree).2.1
  have hnl : s.alloc ∉ l.postorder := fun hm => by simp [hl.valid hm] at hf
  have hnr : s.alloc ∉ r.postorder := fun hm => by simp [hr.valid hm] at hf
  obtain ⟨hdl, hdr, hlr⟩ := List.nodup_append.1 hd
  refine ⟨?_, ?_, ?_⟩
  · rw [slot?_join_new hfree (ne_of_mem_of_not_mem l.root_mem_postorder hnl)
      (ne_of_mem_of_not_mem r.root_mem_postorder hnr), hl.root_freq, hr.root_freq]
  · rw [join_eq_adopt]
    refine State.Holds.adopt_other (State.Holds.adopt_root (hp := false) (hl.congr fun m hm => ?_) hdl)
      fun hm => hlr _ hm _ r.root_mem_postorder rfl
    rw [slot?_setNode_alloc hfree, if_neg (ne_of_mem_of_not_mem hm hnl)]
  · rw [join_eq_adopt]
    refine State.Holds.adopt_root (hp := false) (State.Holds.adopt_other (hr.congr fun m hm => ?_)
      fun hm => hlr _ l.root_mem_postorder _ hm rfl) hdr
    rw [slot?_setNode_alloc hfree, if_neg (ne_of_mem_of_not_mem hm hnr)]

end

/-! ## Trees grown from free slots -/

/-- From s to u the trees ts were grown: u holds them, their nodes are distinct slots free in s, and every other slot is as in s. -/
structure State.Grown (s u : State) (w : Sym → Value) (ts : List NodeTree) : Prop where
  holds    : ∀ t ∈ ts, u.Holds w false t
  distinct : (ts.flatMap NodeTree.postorder).Nodup
  fresh    : ∀ n ∈ ts.flatMap NodeTree.postorder, s.valid n = false
  others   : ∀ n, n ∉ ts.flatMap NodeTree.postorder → u.slot? n = s.slot? n
  count    : u.freeSlots + (ts.flatMap NodeTree.postorder).length = s.freeSlots

section
variable {s u v : State} {w : Sym → Value} {ts ts' : List NodeTree}

theorem State.Grown.of_arena_eq (h : u.arena = s.arena) : s.Grown u w [] where
  holds := by simp
  distinct := by simp
  fresh := by simp
  others n _ := slot?_of_arena_eq h n
  count := by simp [freeSlots_of_arena_eq h]

theorem State.Grown.arena_congr (h : s.Grown u w ts) (ha : v.arena = u.arena) : s.Grown v w ts where
  holds t ht := (h.holds t ht).congr fun n _ => slot?_of_arena_eq ha n
  distinct := h.distinct
  fresh := h.fresh
  others n hn := (slot?_of_arena_eq ha n).trans (h.others n hn)
  count := by rw [freeSlots_of_arena_eq ha, h.count]

theorem State.Grown.base_congr {s' : State} (h : s.Grown u w ts) (ha : s'.arena = s.arena) : s'.Grown u w ts where
  holds := h.holds
  distinct := h.distinct
  fresh n hn := by rw [State.valid, slot?_of_arena_eq ha]; exact h.fresh n hn
  others n hn := (h.others n hn).trans (slot?_of_arena_eq ha n).symm
  count := by rw [freeSlots_of_arena_eq ha, h.count]

theorem State.Grown.perm (h : s.Grown u w ts) (hp : ts.Perm ts') : s.Grown u w ts' := by
  have hn := hp.flatMap_right NodeTree.postorder
  exact ⟨fun t ht => h.holds t (hp.mem_iff.2 ht), hn.nodup_iff.1 h.distinct, fun n hm => h.fresh n (hn.mem_iff.2 hm),
    fun n hm => h.others n fun hm' => hm (hn.mem_iff.1 hm'), hn.length_eq ▸ h.count⟩

theorem State.Grown.valid (h : s.Grown u w ts) {n : NodeIx} (hn : n ∈ ts.flatMap NodeTree.postorder) : u.valid n = true := by
  obtain ⟨t, ht, hn⟩ := List.mem_flatMap.1 hn
  exact (h.holds t ht).valid hn

/-- A free slot is none of the grown nodes, and was free before. -/
theorem State.Grown.free_slot (h : s.Grown u w ts) {n : NodeIx} (hn : u.valid n = false) :
    n ∉ ts.flatMap NodeTree.postorder ∧ s.valid n = false := by
  have hout : n ∉ ts.flatMap NodeTree.postorder := fun hm => by simp [h.valid hm] at hn
  exact ⟨hout, by rwa [State.valid, ← h.others n hout]⟩

/-- Growing: the new tree holds, its one new node was free, and the other slots stay. -/
theorem State.Grown.step {t : NodeTree} {old : List NodeTree} (h : s.Grown u w (old ++ ts)) (hfree : 0 < u.freeSlots)
    (hnodes : t.postorder.Perm (u.alloc :: old.flatMap NodeTree.postorder)) (ht : v.Holds w false t)
    (hkeep : ∀ n, n ∉ t.postorder → v.slot? n = u.slot? n) (hcount : v.freeSlots + 1 = u.freeSlots) :
    s.Grown v w (t :: ts) := by
  obtain ⟨hout, hfresh⟩ := h.free_slot (alloc_lowestFree hfree).2.1
  have hall : ((t :: ts).flatMap NodeTree.postorder).Perm (u.alloc :: (old ++ ts).flatMap NodeTree.postorder) := by
    simpa using hnodes.append_right (ts.flatMap NodeTree.postorder)
  have hd : ((t :: ts).flatMap NodeTree.postorder).Nodup := hall.nodup_iff.2 (List.nodup_cons.2 ⟨hout, h.distinct⟩)
  constructor
  case distinct => exact hd
  case holds =>
    intro t' ht'
    obtain rfl | ht' := List.mem_cons.1 ht'
    · exact ht
    · refine (h.holds t' (List.mem_append_right _ ht')).congr fun n hn => hkeep n fun hn' => ?_
      exact (List.nodup_append.1 hd).2.2 n hn' n (List.mem_flatMap.2 ⟨t', ht', hn⟩) rfl
  case fresh =>
    intro n hn
    obtain rfl | hn := List.mem_cons.1 (hall.mem_iff.1 hn)
    · exact hfresh
    · exact h.fresh n hn
  case others =>
    intro n hn
    rw [hkeep n fun hn' => hn (List.mem_append_left _ hn')]
    exact h.others n fun hn' => hn (hall.mem_iff.2 (List.mem_cons_of_mem _ hn'))
  case count =>
    have := h.count
    rw [hall.length_eq, List.length_cons]
    omega

theorem State.Grown.makeLeaf (h : s.Grown u w ts) (hfree : 0 < u.freeSlots) (x : Sym) :
    s.Grown (u.makeLeaf x (w x)).2 w (.leaf u.alloc x :: ts) := by
  have hslot := slot?_setNode_alloc hfree ⟨true, x, w x, nullNode, nullNode, false⟩
  refine State.Grown.step (old := []) h hfree (.refl _) ((hslot _).trans (if_pos rfl)) (fun n hn => ?_)
    (freeSlots_setNode_alloc hfree rfl)
  exact (hslot n).trans (if_neg (by simpa [NodeTree.postorder] using hn))

theorem State.Grown.join {l r : NodeTree} (h : s.Grown u w (l :: r :: ts)) (hfree : 0 < u.freeSlots) :
    s.Grown (u.join l.root r.root).2 w (.node u.alloc l r :: ts) := by
  have hl := h.holds l (by simp)
  have hr := h.holds r (by simp)
  have hd : (l.postorder ++ r.postorder).Nodup := by
    have := h.distinct
    rw [List.flatMap_cons, List.flatMap_cons, ← List.append_assoc] at this
    exact (List.nodup_append.1 this).1
  have hnodes : (NodeTree.node u.alloc l r).postorder.Perm (u.alloc :: [l, r].flatMap NodeTree.postorder) := by
    simpa [NodeTree.postorder] using List.perm_middle (l₁ := l.postorder ++ r.postorder) (l₂ := [])
  refine State.Grown.step (old := [l, r]) h hfree hnodes (State.Holds.join hfree hl hr hd) (fun n hn => ?_)
    (freeSlots_join hfree (hl.valid l.root_mem_postorder) (hr.valid r.root_mem_postorder))
  simp only [NodeTree.postorder, List.mem_append, List.mem_singleton, not_or] at hn
  obtain ⟨⟨hnl, hnr⟩, hne⟩ := hn
  exact slot?_join_other hfree hne (ne_of_mem_of_not_mem l.root_mem_postorder hnl).symm
    (ne_of_mem_of_not_mem r.root_mem_postorder hnr).symm

/-- One tree grown is a tree made by the command. -/
theorem State.Grown.madeTree {t : NodeTree} (h : s.Grown u w [t]) : s.MadeTree u t.root t := by
  have hnodes : [t].flatMap NodeTree.postorder = t.postorder := by simp
  have ht := h.holds t (by simp)
  have hd : t.postorder.Nodup := hnodes ▸ h.distinct
  exact ⟨ht.treeAt hd, hd, fun n hn => ⟨h.fresh n (hnodes ▸ hn), ht.valid hn⟩, fun n hn => ht.hasParent hn,
    fun n hn hleaf => ht.joined hn hleaf⟩

/-- The tree of L leaves has used 2L − 1 of the free slots. -/
theorem State.Grown.count_singleton {t : NodeTree} (h : s.Grown u w [t]) :
    u.freeSlots + (2 * t.leafCount - 1) = s.freeSlots := by
  have hcount := h.count
  rwa [List.flatMap_singleton, t.length_postorder] at hcount

theorem State.Grown.keeps_live (h : s.Grown u w ts) {n : NodeIx} (hn : s.valid n = true) : u.slot? n = s.slot? n :=
  h.others n fun hm => by simp [h.fresh n hm] at hn

end
end Sys2Proof.Machine
end

section
/-! SUPPORT. DESERIALIZE of a tree's dump (spec/45_tree_codes.md R290 to R293): check_dump counts the leaves, and the scan
rebuilds the tree on the node stack. -/

namespace Sys2Proof.Machine

/-! ## The dump and its check -/

theorem NodeTree.length_dump (t : NodeTree) : t.dump.length = 3 * t.leafCount - 1 := by
  induction t with
  | leaf n x => rfl
  | node n l r ihl ihr =>
    have := l.leafCount_pos
    have := r.leafCount_pos
    simp only [NodeTree.dump, NodeTree.leafCount, List.length_append, List.length_singleton, ihl, ihr]; omega

theorem checkDump_leaf (x : Sym) (rest : List Byte) (i d leaves : Nat) :
    checkDump (markLeaf :: x :: rest) i d leaves = checkDump rest (i + 2) (d + 1) (leaves + 1) := by
  simp [checkDump]

theorem checkDump_node (rest : List Byte) (i d leaves : Nat) (hd : 2 ≤ d) :
    checkDump (markNode :: rest) i d leaves = checkDump rest (i + 1) (d - 1) leaves := by
  have hm : markNode ≠ markLeaf := by decide
  have hd' : ¬ d < 2 := by omega
  cases rest <;> simp [checkDump, hm, hd']

/-- check_dump reads a whole dump as one more tree with its leaves. -/
theorem checkDump_dump (t : NodeTree) (rest : List Byte) (i d leaves : Nat) :
    checkDump (t.dump ++ rest) i d leaves = checkDump rest (i + t.dump.length) (d + 1) (leaves + t.leafCount) := by
  induction t generalizing rest i d leaves with
  | leaf n x => exact checkDump_leaf x rest i d leaves
  | node n l r ihl ihr =>
    have hlen : i + (NodeTree.node n l r).dump.length = i + l.dump.length + r.dump.length + 1 := by
      simp only [NodeTree.dump, List.length_append, List.length_singleton]; omega
    rw [hlen, NodeTree.leafCount, ← Nat.add_assoc leaves, NodeTree.dump, List.append_assoc, List.append_assoc, ihl, ihr]
    exact checkDump_node rest _ (d + 2) _ (by omega)

theorem checkDump_of_dump (t : NodeTree) : checkDump t.dump 0 0 0 = .good t.leafCount := by
  have h := checkDump_dump t [] 0 0 0
  simpa [checkDump] using h

/-! ## The scan -/

/-- What the scan of a tree's dump does, by recursion on the tree. -/
def State.regrow (s : State) : NodeTree → State
  | .leaf _ x => s.pushLeaf x
  | .node _ l r => ((s.regrow l).regrow r).joinTop

theorem scanDump_leaf (s : State) (x : Sym) (rest : List Byte) :
    s.scanDump (markLeaf :: x :: rest) = (s.pushLeaf x).scanDump rest := by
  simp [State.scanDump]

theorem scanDump_node (s : State) (rest : List Byte) : s.scanDump (markNode :: rest) = s.joinTop.scanDump rest := by
  have hm : markNode ≠ markLeaf := by decide
  cases rest <;> simp [State.scanDump, hm]

theorem scanDump_dump (t : NodeTree) (s : State) (rest : List Byte) :
    s.scanDump (t.dump ++ rest) = (s.regrow t).scanDump rest := by
  induction t generalizing s rest with
  | leaf n x => exact scanDump_leaf s x rest
  | node n l r ihl ihr =>
    rw [NodeTree.dump, List.append_assoc, List.append_assoc, ihl, ihr]
    exact scanDump_node _ rest

/-! ## The stack while the scan runs -/

theorem pushNode_arena (s : State) (n : NodeIx) : (s.pushNode n).arena = s.arena := by
  unfold State.pushNode
  cases h : s.nsPush n with
  | none => rfl
  | some t => rw [Option.getD_some, (nsPush_eq h).2]

theorem popNode_arena (s : State) : s.popNode.2.arena = s.arena := by
  unfold State.popNode
  cases h : s.nsPop with
  | none => rfl
  | some p => rw [Option.getD_some, (nsPop_eq (n := p.1) (t := p.2) h).2.2]

/-- From s to u the stack got the capacity c and the entries ns, the top first, and only the arena changed beside it. -/
structure State.Stacked (s u : State) (c : Nat) (ns : List NodeIx) : Prop where
  list  : u.nsList = ns.reverse
  frame : u = { s with arena := u.arena, nse := u.nse, nsTop := ns.length, nsCap := c }

section
variable {s u v : State} {c : Nat} {n : NodeIx} {ns : List NodeIx}

theorem State.Stacked.nsTop_eq (h : s.Stacked u c ns) : u.nsTop = ns.length := by rw [h.frame]

theorem State.Stacked.nsCap_eq (h : s.Stacked u c ns) : u.nsCap = c := by rw [h.frame]

theorem State.Stacked.init (s : State) (c : Nat) : s.Stacked { s with nsCap := c, nsTop := 0 } c [] where
  list := by simp [State.nsList]
  frame := rfl

theorem State.Stacked.arena_change (h : s.Stacked u c ns) (hv : v = { u with arena := v.arena }) : s.Stacked v c ns where
  list := by rw [hv]; exact h.list
  frame := by rw [hv, h.frame]

theorem State.Stacked.push (h : s.Stacked u c ns) (n : NodeIx) (hcap : ns.length < c) (hmax : c ≤ nsMax) :
    s.Stacked (u.pushNode n) c (n :: ns) := by
  have htop := h.nsTop_eq
  have hpush : u.pushNode n = { u with nse := u.nse.setIfInBounds u.nsTop n, nsTop := u.nsTop + 1 } := by
    simp [State.pushNode, State.nsPush, htop, h.nsCap_eq, Nat.ne_of_lt hcap]
  have hlen : u.nsTop < (u.nse.toList.set u.nsTop n).length := by simp; omega
  constructor
  case list =>
    rw [hpush]
    change (u.nse.setIfInBounds u.nsTop n).toList.take (u.nsTop + 1) = _
    rw [Vector.toList_setIfInBounds, ← List.take_concat_get' _ _ hlen, List.getElem_set_self,
      List.take_set_of_le (Nat.le_refl _), List.reverse_cons, ← h.list, State.nsList]
  case frame => rw [hpush, htop, h.frame]; rfl

theorem State.Stacked.pop (h : s.Stacked u c (n :: ns)) :
    u.popNode.1 = n ∧ s.Stacked u.popNode.2 c ns := by
  have htop : u.nsTop = ns.length + 1 := h.nsTop_eq
  have hlist : u.nse.toList.take (ns.length + 1) = ns.reverse ++ [n] := by
    rw [← htop, ← List.reverse_cons]; exact h.list
  have hpop : u.popNode = (u.nse.toList.getD ns.length nullNode, { u with nsTop := ns.length }) := by
    simp [State.popNode, State.nsPop, htop]
  rw [hpop]
  refine ⟨?_, ?_, ?_⟩
  · have hget : (u.nse.toList.take (ns.length + 1))[ns.length]? = u.nse.toList[ns.length]? := by simp
    rw [List.getD_eq_getElem?_getD, ← hget, hlist]
    simp
  · change u.nse.toList.take ns.length = ns.reverse
    have htake : u.nse.toList.take ns.length = (u.nse.toList.take (ns.length + 1)).take ns.length := by
      rw [List.take_take]; congr 1; omega
    rw [htake, hlist, List.take_left' (by simp)]
  · change { u with nsTop := _ } = _
    rw [h.frame]

end

/-! ## The tree the scan grows -/

theorem NodeTree.leafCount_eq_of_sameShape {t t' : NodeTree} (h : t'.sameShape t = true) : t'.leafCount = t.leafCount := by
  induction t generalizing t' with
  | leaf n x => cases t' <;> simp_all [NodeTree.sameShape, NodeTree.leafCount]
  | node n l r ihl ihr =>
    cases t' with
    | leaf n x => simp [NodeTree.sameShape] at h
    | node n' l' r' =>
      rw [NodeTree.sameShape, Bool.and_eq_true] at h
      rw [NodeTree.leafCount, NodeTree.leafCount, ihl h.1, ihr h.2]

/-- The frequency the rebuilt leaves get (R291). -/
def placeholderWeight (_ : Sym) : Value := placeholderFreq

theorem NodeTree.weight_placeholder (t : NodeTree) : t.weight placeholderWeight = 0 := by
  induction t with
  | leaf n x => rfl
  | node n l r ihl ihr => rw [NodeTree.weight, ihl, ihr]; rfl

/-- u has grown the trees ts, and their roots stand on the stack, the last one on top. -/
structure State.Rebuilding (s u : State) (c : Nat) (ts : List NodeTree) : Prop where
  grown   : s.Grown u placeholderWeight ts
  stacked : s.Stacked u c (ts.map NodeTree.root)

section
variable {s u : State} {c : Nat} {ts : List NodeTree}

theorem State.Rebuilding.pushLeaf (h : s.Rebuilding u c ts) (hc : c ≤ nsMax) (hcap : ts.length < c)
    (hfree : 0 < u.freeSlots) (x : Sym) : s.Rebuilding (u.pushLeaf x) c (.leaf u.alloc x :: ts) where
  grown := (h.grown.makeLeaf hfree x).arena_congr (pushNode_arena _ _)
  stacked := (h.stacked.arena_change (makeLeaf_eq u x placeholderFreq)).push u.alloc (by simpa using hcap) hc

theorem State.Rebuilding.joinTop {l r : NodeTree} (h : s.Rebuilding u c (r :: l :: ts)) (hc : c ≤ nsMax)
    (hcap : ts.length + 2 ≤ c) (hfree : 0 < u.freeSlots) : s.Rebuilding u.joinTop c (.node u.alloc l r :: ts) := by
  obtain ⟨hr, hs₁⟩ := h.stacked.pop
  obtain ⟨hl, hs₂⟩ := hs₁.pop
  have harena : u.popNode.2.popNode.2.arena = u.arena := (popNode_arena _).trans (popNode_arena _)
  have halloc : u.popNode.2.popNode.2.alloc = u.alloc := by simp only [State.alloc, harena]
  have hgrown := ((h.grown.perm (List.Perm.swap _ _ _)).arena_congr harena).join (freeSlots_of_arena_eq harena ▸ hfree)
  have hjoin : u.joinTop = (u.popNode.2.popNode.2.join l.root r.root).2.pushNode u.alloc := by
    rw [← halloc, ← hl, ← hr]; rfl
  rw [hjoin, ← halloc]
  exact ⟨hgrown.arena_congr (pushNode_arena _ _),
    (hs₂.arena_change (join_eq _ _ _)).push _ (by simp; omega) hc⟩

/-- The scan of a tree's dump, with slots and stack enough, grows one more tree of its shape. -/
theorem State.Rebuilding.regrow (t : NodeTree) (h : s.Rebuilding u c ts) (hc : c ≤ nsMax)
    (hcap : ts.length + t.dump.length ≤ c) (hfree : 2 * t.leafCount - 1 ≤ u.freeSlots) :
    ∃ t', t'.sameShape t = true ∧ s.Rebuilding (u.regrow t) c (t' :: ts) := by
  induction t generalizing u ts with
  | leaf n x =>
    simp only [NodeTree.dump, List.length_cons, List.length_nil, NodeTree.leafCount] at hcap hfree
    exact ⟨_, by simp [NodeTree.sameShape], h.pushLeaf hc (by omega) (by omega) x⟩
  | node n l r ihl ihr =>
    have hlpos := l.leafCount_pos
    have hrpos := r.leafCount_pos
    have hldump := l.length_dump
    simp only [NodeTree.dump, List.length_append, List.length_singleton, NodeTree.leafCount] at hcap hfree
    obtain ⟨l', hl', h₁⟩ := ihl h (by omega) (by omega)
    have hfree₁ : (u.regrow l).freeSlots + (2 * l.leafCount - 1) = u.freeSlots := by
      have hcount := h.grown.count
      have hcount₁ := h₁.grown.count
      rw [List.flatMap_cons, List.length_append, l'.length_postorder, NodeTree.leafCount_eq_of_sameShape hl'] at hcount₁
      omega
    obtain ⟨r', hr', h₂⟩ := ihr h₁ (by simp; omega) (by omega)
    have hfree₂ : ((u.regrow l).regrow r).freeSlots + (2 * r.leafCount - 1) = (u.regrow l).freeSlots := by
      have hcount := h₁.grown.count
      have hcount₂ := h₂.grown.count
      rw [List.flatMap_cons, List.length_append, r'.length_postorder, NodeTree.leafCount_eq_of_sameShape hr'] at hcount₂
      omega
    exact ⟨_, by simp [NodeTree.sameShape, hl', hr'], h₂.joinTop hc (by omega) (by omega)⟩

end

/-- `rebuild` of a tree's dump answers the root of the one tree grown, and leaves the stack empty. -/
theorem rebuild_dump {s : State} {tr : NodeTree} (hleaves : tr.leafCount ≤ 256) (hfree : 2 * tr.leafCount - 1 ≤ s.freeSlots) :
    ∃ u t', t'.sameShape tr = true ∧ s.rebuild tr.dump = (t'.root, u) ∧ s.Grown u placeholderWeight [t'] ∧
      u = { s with arena := u.arena, nse := u.nse, nsTop := 0, nsCap := tr.dump.length } := by
  have hmax : tr.dump.length ≤ 767 := by rw [tr.length_dump]; omega
  have hscan : ∀ u : State, u.scanDump tr.dump = u.regrow tr := fun u => by
    simpa [State.scanDump] using scanDump_dump tr u []
  have hinit : s.Rebuilding { s with nsCap := tr.dump.length, nsTop := 0 } tr.dump.length [] :=
    ⟨.of_arena_eq rfl, .init s _⟩
  obtain ⟨t', hshape, h⟩ := hinit.regrow tr hmax (by simp) hfree
  obtain ⟨hroot, hstack⟩ := h.stacked.pop
  refine ⟨_, t', hshape, ?_, h.grown.arena_congr (popNode_arena _), hstack.frame⟩
  rw [State.rebuild, hscan, ← hroot]

/-- Settles O48: the source supplies the dump, check_dump accepts it with its leaf count, and the scan, an invariant over the
trees grown so far and the stack, leaves one tree. -/
theorem deserializeRebuildsTheDumpedTree : Obligations.DeserializeRebuildsTheDumpedTree := by
  unfold Obligations.DeserializeRebuildsTheDumpedTree
  intro s tr rest herr hleaves hfree hsize hsource
  let s₁ : State := { s with source := rest, taken := s.taken + tr.dump.length }
  have hread : s.sourceRead tr.dump.length = some (tr.dump, s₁) := by rw [State.sourceRead, hsource, takeBytes_map]
  have hmax : ¬ dumpMax < tr.dump.length := by
    have : tr.dump.length ≤ 767 := by rw [tr.length_dump]; omega
    exact Nat.not_lt.2 this
  obtain ⟨u, t', hshape, hrebuild, hgrown₁, hframe⟩ := rebuild_dump (s := s₁) hleaves hfree
  have hgrown : s.Grown u placeholderWeight [t'] := hgrown₁.base_congr rfl
  have ht' := hgrown.holds t' (by simp)
  refine ⟨u.arena, u.nse, t'.root, ?_, fun n hn => hgrown.keeps_live hn, ?_, ht'.root_hasParent,
    t', State.Grown.madeTree (hgrown.arena_congr rfl), hshape, fun n hn => ?_⟩
  · have hexec : exec .deserialize s = .next ({ u with root := t'.root }.respond .ok (value tr.leafCount)) := by
      have hfits : ¬ s₁.freeSlots < 2 * tr.leafCount - 1 := Nat.not_lt.2 hfree
      simp only [exec, execDeserialize, unlessHalted_running herr, hmax, if_false, hread, hsize, Nat.lt_irrefl,
        checkDump_of_dump, hfits, hrebuild]
    rw [hexec, hframe]
  · rw [← NodeTree.leafCount_eq_of_sameShape hshape]
    exact hgrown.count_singleton
  · obtain ⟨t'', rfl, -, hp, ht''⟩ := ht'.subtree hn
    exact ht''.root_freq.trans t''.weight_placeholder

end Sys2Proof.Machine
end

section
/-! SUPPORT. The circular queue refines the ordered list of spec/42_pqueue.md R210: the shifting loop of `pq_enqueue` (R201)
inserts before the first entry of a greater key, `pq_dequeue` (R202) takes the head. -/

namespace Sys2Proof.Machine

/-! ## The list model's enqueue -/

/-- Insertion before the first element of a greater key, or at the end (R210), for elements of any kind with a key. -/
def insertKeyed {α : Type} (key : α → Value) (q : List α) (e : α) : List α :=
  q.takeWhile (fun x => key x ≤ key e) ++ e :: q.dropWhile (fun x => key x ≤ key e)

/-- The keys are in non-decreasing order (R42). -/
def OrderedBy {α : Type} (key : α → Value) (q : List α) : Prop := q.Pairwise fun a b => key a ≤ key b

section
variable {α β : Type} {key : α → Value} {q : List α} {e x : α}

theorem insertKeyed_perm (key : α → Value) (q : List α) (e : α) : (insertKeyed key q e).Perm (e :: q) := by
  refine List.perm_middle.trans ?_
  rw [List.takeWhile_append_dropWhile]

theorem length_insertKeyed (key : α → Value) (q : List α) (e : α) : (insertKeyed key q e).length = q.length + 1 :=
  (insertKeyed_perm key q e).length_eq

theorem insertKeyed_map (f : α → β) (key' : β → Value) (q : List α) (e : α) :
    insertKeyed key' (q.map f) (f e) = (insertKeyed (fun x => key' (f x)) q e).map f := by
  simp only [insertKeyed, List.map_append, List.map_cons, List.takeWhile_map, List.dropWhile_map]
  rfl

theorem insertKeyed_cons_le (h : key x ≤ key e) : insertKeyed key (x :: q) e = x :: insertKeyed key q e := by
  simp [insertKeyed, h]

theorem insertKeyed_cons_lt (h : key e < key x) : insertKeyed key (x :: q) e = e :: x :: q := by
  simp [insertKeyed, BitVec.not_le.2 h]

theorem OrderedBy.insertKeyed (h : OrderedBy key q) (e : α) : OrderedBy key (insertKeyed key q e) := by
  induction q with
  | nil => exact List.pairwise_singleton _ _
  | cons x q ih =>
    obtain ⟨hx, hq⟩ := List.pairwise_cons.1 h
    by_cases hle : key x ≤ key e
    · rw [insertKeyed_cons_le hle]
      refine List.pairwise_cons.2 ⟨fun y hy => ?_, ih hq⟩
      obtain rfl | hy := List.mem_cons.1 ((insertKeyed_perm key q e).mem_iff.1 hy)
      · exact hle
      · exact hx y hy
    · have hlt := BitVec.not_le.1 hle
      rw [insertKeyed_cons_lt hlt]
      refine List.pairwise_cons.2 ⟨fun y hy => ?_, h⟩
      obtain rfl | hy := List.mem_cons.1 hy
      · exact BitVec.le_of_lt hlt
      · exact BitVec.le_trans (BitVec.le_of_lt hlt) (hx y hy)

/-- Seen from the tail, the insertion passes a greater last element ... -/
theorem insertKeyed_concat_lt (q : List α) (h : key e < key x) :
    insertKeyed key (q ++ [x]) e = insertKeyed key q e ++ [x] := by
  induction q with
  | nil => exact insertKeyed_cons_lt h
  | cons y q ih =>
    by_cases hle : key y ≤ key e
    · rw [List.cons_append, insertKeyed_cons_le hle, ih, insertKeyed_cons_le hle, List.cons_append]
    · have hlt := BitVec.not_le.1 hle
      rw [List.cons_append, insertKeyed_cons_lt hlt, insertKeyed_cons_lt hlt]
      rfl

/-- ... and stops behind one that is not. -/
theorem insertKeyed_of_last_le (hq : OrderedBy key (q ++ [x])) (h : key x ≤ key e) :
    insertKeyed key (q ++ [x]) e = q ++ [x] ++ [e] := by
  have hall : ∀ y ∈ q ++ [x], decide (key y ≤ key e) = true := by
    intro y hy
    obtain hy | hy := List.mem_append.1 hy
    · exact decide_eq_true (BitVec.le_trans ((List.pairwise_append.1 hq).2.2 y hy x (by simp)) h)
    · rw [List.mem_singleton.1 hy]; exact decide_eq_true h
  rw [insertKeyed, List.takeWhile_eq_self_iff.2 hall, List.dropWhile_eq_nil_iff.2 hall]

end

/-! ## The circular buffer -/

/-- The slot at position k, counted around the end of the buffer. -/
def queueSlot (v : Vector PqSlot 257) (k : Nat) : PqSlot := v[k % 257]'(Nat.mod_lt _ (by decide))

theorem getElem_eq_queueSlot (v : Vector PqSlot 257) (i : Fin 257) : v[i] = queueSlot v i.val := by
  simp [queueSlot, Nat.mod_eq_of_lt i.isLt]

theorem queueSlot_mod (v : Vector PqSlot 257) (k : Nat) : queueSlot v (k % 257) = queueSlot v k := by simp [queueSlot]

/-- The n entries from slot h on. -/
def queueView (v : Vector PqSlot 257) (h n : Nat) : List PqSlot := (List.range n).map fun k => queueSlot v (h + k)

theorem pqList_eq (s : State) : s.pqList = queueView s.pqSlots s.pqHead.val s.pqSize := rfl

theorem length_pqList (s : State) : s.pqList.length = s.pqSize := by simp [State.pqList]

theorem queueView_succ (v : Vector PqSlot 257) (h n : Nat) :
    queueView v h (n + 1) = queueView v h n ++ [queueSlot v (h + n)] := by
  simp [queueView, List.range_succ]

theorem queueView_cons (v : Vector PqSlot 257) (h n : Nat) :
    queueView v h (n + 1) = queueSlot v h :: queueView v (h + 1) n := by
  simp [queueView, List.range_succ_eq_map, Nat.add_assoc, Nat.add_comm 1]

theorem queueView_mod (v : Vector PqSlot 257) (h n : Nat) : queueView v (h % 257) n = queueView v h n := by
  simp [queueView, queueSlot]

theorem queueView_congr {v v' : Vector PqSlot 257} {h n : Nat}
    (hv : ∀ k < n, queueSlot v' (h + k) = queueSlot v (h + k)) :
    queueView v' h n = queueView v h n :=
  List.map_congr_left fun k hk => hv k (List.mem_range.1 hk)

/-- A store to the slot at distance n from h is seen at no other distance. -/
theorem queueSlot_set (v : Vector PqSlot 257) (h n k : Nat) (i : Fin 257) (x : PqSlot) (hi : i.val = (h + n) % 257)
    (hn : n < 257) (hk : k < 257) :
    queueSlot (v.set i.val x) (h + k) = if k = n then x else queueSlot v (h + k) := by
  rw [queueSlot, queueSlot, Vector.getElem_set]
  congr 1
  rw [hi]
  exact propext ⟨fun he => by omega, fun he => by rw [he]⟩

/-- The slots after the entry e is placed: the shifting loop, then the store (R201). -/
def placeEntry (v : Vector PqSlot 257) (count : Nat) (i : Fin 257) (e : PqSlot) : Vector PqSlot 257 :=
  (shiftUp e.key count i v).1.set (shiftUp e.key count i v).2.val e

section
variable {v : Vector PqSlot 257} {count : Nat} {i : Fin 257} {e : PqSlot}

theorem placeEntry_shift (h : e.key < v[i - 1].key) :
    placeEntry v (count + 1) i e = placeEntry (v.set i.val v[i - 1]) count (i - 1) e := by
  unfold placeEntry
  simp only [shiftUp, if_pos h]

theorem placeEntry_stop (h : ¬ e.key < v[i - 1].key) : placeEntry v (count + 1) i e = v.set i.val e := by
  unfold placeEntry
  simp only [shiftUp, if_neg h]

end

/-- Placing an entry behind `count` ordered entries inserts it among them, and touches no slot further on. -/
theorem placeEntry_spec (e : PqSlot) (h count : Nat) (v : Vector PqSlot 257) (i : Fin 257) (hi : i.val = (h + count) % 257)
    (hc : count < 257) (ho : OrderedBy PqSlot.key (queueView v h count)) :
    queueView (placeEntry v count i e) h (count + 1) = insertKeyed PqSlot.key (queueView v h count) e ∧
    ∀ k, count < k → k < 257 → queueSlot (placeEntry v count i e) (h + k) = queueSlot v (h + k) := by
  induction count generalizing v i with
  | zero =>
    have hset := fun k => queueSlot_set v h 0 k i e hi hc
    refine ⟨?_, fun k hk hk' => (hset k hk').trans (if_neg (by omega))⟩
    exact congrArg (fun x => [x]) ((hset 0 hc).trans (if_pos rfl))
  | succ count ih =>
    have hpred : (i - 1).val = (h + count) % 257 := by
      rw [Fin.val_sub, hi]; change (257 - 1 + _) % 257 = _; omega
    have hlast : v[i - 1] = queueSlot v (h + count) := by rw [getElem_eq_queueSlot, hpred, queueSlot_mod]
    rw [queueView_succ _ _ (count + 1)]
    rw [queueView_succ, ← hlast] at ho
    rw [queueView_succ v, ← hlast]
    by_cases hlt : e.key < v[i - 1].key
    · have hset := fun k => queueSlot_set v h (count + 1) k i v[i - 1] hi hc
      have hview : queueView (v.set i.val v[i - 1]) h count = queueView v h count :=
        queueView_congr fun k hk => (hset k (by omega)).trans (if_neg (by omega))
      obtain ⟨hins, hkeep⟩ := ih (v.set i.val v[i - 1]) (i - 1) hpred (by omega) (hview ▸ (List.pairwise_append.1 ho).1)
      rw [placeEntry_shift hlt]
      refine ⟨?_, fun k hk hk' => ?_⟩
      · rw [hins, hview, hkeep (count + 1) (by omega) hc, hset (count + 1) hc, if_pos rfl, insertKeyed_concat_lt _ hlt]
      · rw [hkeep k (by omega) hk', hset k hk', if_neg (by omega)]
    · have hset := fun k => queueSlot_set v h (count + 1) k i e hi hc
      rw [placeEntry_stop hlt]
      refine ⟨?_, fun k hk hk' => (hset k hk').trans (if_neg (by omega))⟩
      have hview : queueView (v.set i.val e) h (count + 1) = queueView v h count ++ [v[i - 1]] := by
        rw [hlast, ← queueView_succ]
        exact queueView_congr fun k hk => (hset k (by omega)).trans (if_neg (by omega))
      rw [hview, hset (count + 1) hc, if_pos rfl, insertKeyed_of_last_le ho (BitVec.not_lt.1 hlt)]

/-! ## Enqueue and dequeue -/

theorem pqTail_val (s : State) : s.pqTail.val = (s.pqHead.val + s.pqSize) % 257 := by
  have := s.pqHead.isLt
  have := s.pqTail.isLt
  rw [State.pqSize, Fin.val_sub]; omega

theorem pqSize_tail_succ {s : State} (v : Vector PqSlot 257) (h : s.pqSize < pqN) :
    ({ s with pqSlots := v, pqTail := s.pqTail + 1 } : State).pqSize = s.pqSize + 1 := by
  have htail := pqTail_val s
  have hlt := s.pqHead.isLt
  change (s.pqTail + 1 - s.pqHead).val = _
  have hone : (s.pqTail + 1).val = (s.pqTail.val + 1) % 257 := Fin.val_add _ _
  rw [Fin.val_sub, hone, htail]
  change s.pqSize < 256 at h
  omega

theorem pqSize_head_succ {s : State} {n : Nat} (h : s.pqSize = n + 1) :
    ({ s with pqHead := s.pqHead + 1 } : State).pqSize = n := by
  have htail := pqTail_val s
  have hlt := s.pqHead.isLt
  have hsize : s.pqSize < 257 := (s.pqTail - s.pqHead).isLt
  change (s.pqTail - (s.pqHead + 1)).val = _
  have hone : (s.pqHead + 1).val = (s.pqHead.val + 1) % 257 := Fin.val_add _ _
  rw [Fin.val_sub, hone, htail]
  omega

/-- On an ordered queue with room, `pq_enqueue` is the list model's insertion. -/
theorem pqEnqueue_spec {s : State} (n : NodeIx) (h : s.pqSize < pqN) (ho : s.QueueOrdered) :
    ∃ v, s.pqEnqueue n = some { s with pqSlots := v, pqTail := s.pqTail + 1 } ∧
      ({ s with pqSlots := v, pqTail := s.pqTail + 1 } : State).pqList =
        insertKeyed PqSlot.key s.pqList ⟨n, (s.node n).freq⟩ := by
  refine ⟨placeEntry s.pqSlots s.pqSize s.pqTail ⟨n, (s.node n).freq⟩, ?_, ?_⟩
  · simp [State.pqEnqueue, Nat.ne_of_lt h, placeEntry]
  · rw [pqList_eq, pqSize_tail_succ _ h]
    exact (placeEntry_spec _ _ _ _ _ (pqTail_val s) (Nat.lt_succ_of_lt h) ho).1

/-- `pq_dequeue` takes the head. -/
theorem pqDequeue_spec {s : State} {e : PqSlot} {q : List PqSlot} (h : s.pqList = e :: q) :
    s.pqDequeue = some (e.node, { s with pqHead := s.pqHead + 1 }) ∧
      ({ s with pqHead := s.pqHead + 1 } : State).pqList = q := by
  have hsize : s.pqSize = q.length + 1 := by rw [← length_pqList, h, List.length_cons]
  have hne : s.pqHead ≠ s.pqTail := fun he => by simp [State.pqSize, he] at hsize
  rw [pqList_eq, hsize, queueView_cons, List.cons.injEq] at h
  obtain ⟨hhead, htail⟩ := h
  constructor
  · rw [State.pqDequeue, if_neg hne, getElem_eq_queueSlot, hhead]
  · have hval : (s.pqHead + 1).val = (s.pqHead.val + 1) % 257 := Fin.val_add _ _
    rw [pqList_eq, pqSize_head_succ hsize]
    change queueView s.pqSlots (s.pqHead + 1).val _ = q
    rw [hval, queueView_mod, htail]

end Sys2Proof.Machine
end

section
/-! SUPPORT. BUILD (spec/44_tree.md R252): the queue of grown trees follows the list model's merging, tree by tree. -/

namespace Sys2Proof.Machine

/-! ## The queue while BUILD runs -/

theorem enqueueNode_arena (s : State) (n : NodeIx) : (s.enqueueNode n).arena = s.arena := by
  unfold State.enqueueNode
  cases h : s.pqEnqueue n with
  | none => rfl
  | some t => rw [Option.getD_some, (pqEnqueue_eq h).2]

theorem dequeueNode_arena (s : State) : s.dequeueNode.2.arena = s.arena := by
  unfold State.dequeueNode
  cases h : s.pqDequeue with
  | none => rfl
  | some p => rw [Option.getD_some, (pqDequeue_eq (n := p.1) (t := p.2) h).2.2]

/-- From s to u the queue got the ordered entries q, and only the arena changed beside it. -/
structure State.Queued (s u : State) (q : List PqSlot) : Prop where
  list    : u.pqList = q
  ordered : OrderedBy PqSlot.key q
  frame   : u = { s with arena := u.arena, pqSlots := u.pqSlots, pqHead := u.pqHead, pqTail := u.pqTail }

section
variable {s u v : State} {q : List PqSlot}

theorem State.Queued.init (s : State) : s.Queued { s with pqHead := 0, pqTail := 0 } [] where
  list := rfl
  ordered := .nil
  frame := rfl

theorem State.Queued.pqSize_eq (h : s.Queued u q) : u.pqSize = q.length := by rw [← length_pqList, h.list]

theorem State.Queued.tail_eq_head (h : s.Queued u []) : u.pqTail = u.pqHead :=
  sub_eq_zero.1 (Fin.ext h.pqSize_eq)

theorem State.Queued.arena_change (h : s.Queued u q) (hv : v = { u with arena := v.arena }) : s.Queued v q where
  list := by rw [hv]; exact h.list
  ordered := h.ordered
  frame := by rw [hv, h.frame]

theorem State.Queued.enqueue (h : s.Queued u q) (n : NodeIx) (hlen : q.length < pqN) :
    s.Queued (u.enqueueNode n) (insertKeyed PqSlot.key q ⟨n, (u.node n).freq⟩) := by
  have ho : u.QueueOrdered := by unfold State.QueueOrdered; rw [h.list]; exact h.ordered
  obtain ⟨v, henq, hlist⟩ := pqEnqueue_spec n (h.pqSize_eq ▸ hlen) ho
  rw [State.enqueueNode, henq, Option.getD_some]
  refine ⟨by rw [hlist, h.list], h.ordered.insertKeyed _, ?_⟩
  rw [h.frame]

theorem State.Queued.dequeue {e : PqSlot} (h : s.Queued u (e :: q)) :
    u.dequeueNode.1 = e.node ∧ s.Queued u.dequeueNode.2 q := by
  obtain ⟨hdeq, hlist⟩ := pqDequeue_spec h.list
  rw [State.dequeueNode, hdeq, Option.getD_some]
  refine ⟨rfl, hlist, (List.pairwise_cons.1 h.ordered).2, ?_⟩
  change { u with pqHead := u.pqHead + 1 } = _
  rw [h.frame]

end

/-! ## Trees with their frequencies -/

/-- A tree with the indices left out, as the list model has it. -/
def NodeTree.blank : NodeTree → NodeTree
  | .leaf _ x => .leaf nullNode x
  | .node _ l r => .node nullNode l.blank r.blank

theorem NodeTree.sameShape_blank (t : NodeTree) : t.sameShape t.blank = true := by
  induction t with
  | leaf n x => simp [NodeTree.blank, NodeTree.sameShape]
  | node n l r ihl ihr => simp [NodeTree.blank, NodeTree.sameShape, ihl, ihr]

/-- The list model's element of a grown tree. -/
def blankEntry (e : Value × NodeTree) : Value × NodeTree := (e.1, e.2.blank)

/-- The queue's entry of a grown tree. -/
def queueEntry (e : Value × NodeTree) : PqSlot := ⟨e.2.root, e.1⟩

theorem insertByKey_blank (q : List (Value × NodeTree)) (e : Value × NodeTree) :
    insertByKey (q.map blankEntry) (blankEntry e) = (insertByKey q e).map blankEntry :=
  insertKeyed_map blankEntry Prod.fst q e

theorem insertKeyed_queueEntry (q : List (Value × NodeTree)) (e : Value × NodeTree) :
    insertKeyed PqSlot.key (q.map queueEntry) (queueEntry e) = (insertByKey q e).map queueEntry :=
  insertKeyed_map queueEntry PqSlot.key q e

theorem insertByKey_perm (q : List (Value × NodeTree)) (e : Value × NodeTree) : (insertByKey q e).Perm (e :: q) :=
  insertKeyed_perm Prod.fst q e

theorem length_nodes (q : List (Value × NodeTree)) :
    ((q.map Prod.snd).flatMap NodeTree.postorder).length + q.length = 2 * (q.flatMap fun e => e.2.symbols).length := by
  induction q with
  | nil => rfl
  | cons e q ih =>
    have := e.2.leafCount_pos
    simp only [List.map_cons, List.flatMap_cons, List.length_append, List.length_cons, e.2.length_postorder,
      e.2.length_symbols] at ih ⊢
    omega

/-- u has grown the trees of q from the symbols xs with the histogram's counts, each with its frequency, and they stand on the
queue in this order. -/
structure State.Building (s u : State) (xs : List Sym) (q : List (Value × NodeTree)) : Prop where
  grown   : s.Grown u s.histAt (q.map Prod.snd)
  queued  : s.Queued u (q.map queueEntry)
  weights : ∀ e ∈ q, e.1 = e.2.weight s.histAt
  leaves  : (q.flatMap fun e => e.2.symbols).Perm xs

section
variable {s u v : State} {xs : List Sym} {q : List (Value × NodeTree)}

theorem State.Building.init (s : State) : s.Building { s with pqHead := 0, pqTail := 0 } [] [] where
  grown := .of_arena_eq rfl
  queued := .init s
  weights := by simp
  leaves := .refl _

theorem State.Building.leaves_perm {xs' : List Sym} (h : s.Building u xs q) (hp : xs.Perm xs') : s.Building u xs' q :=
  ⟨h.grown, h.queued, h.weights, h.leaves.trans hp⟩

/-- Every tree of L leaves has used 2L − 1 of the free slots. -/
theorem State.Building.count (h : s.Building u xs q) : u.freeSlots + 2 * xs.length = s.freeSlots + q.length := by
  have hcount := h.grown.count
  have hnodes := length_nodes q
  rw [h.leaves.length_eq] at hnodes
  omega

/-- A tree grown beside the trees on the queue is enqueued with its frequency where the list model inserts it. -/
theorem State.Building.enqueue {t : NodeTree} (hgrown : s.Grown v s.histAt (t :: q.map Prod.snd))
    (hqueued : s.Queued v (q.map queueEntry)) (hweights : ∀ e ∈ q, e.1 = e.2.weight s.histAt)
    (hleaves : (t.symbols ++ q.flatMap fun e => e.2.symbols).Perm xs) (hlen : q.length < pqN) :
    s.Building (v.enqueueNode t.root) xs (insertByKey q (t.weight s.histAt, t)) := by
  have hperm := insertByKey_perm q (t.weight s.histAt, t)
  constructor
  case grown => exact (hgrown.perm (hperm.map Prod.snd).symm).arena_congr (enqueueNode_arena _ _)
  case queued =>
    have h := hqueued.enqueue t.root (by simpa using hlen)
    rw [(hgrown.holds t (by simp)).root_freq] at h
    exact insertKeyed_queueEntry q (t.weight s.histAt, t) ▸ h
  case weights =>
    intro e he
    obtain rfl | he := List.mem_cons.1 (hperm.mem_iff.1 he)
    · rfl
    · exact hweights e he
  case leaves => exact (hperm.flatMap_right _).trans hleaves

theorem State.Building.enqueueLeaf (h : s.Building u xs q) (hlen : q.length < pqN) (hfree : 0 < u.freeSlots) (x : Sym) :
    s.Building (u.enqueueLeaf x) (x :: xs) (insertByKey q (s.histAt x, .leaf u.alloc x)) := by
  have hhist : u.histAt = s.histAt := by rw [h.queued.frame]; rfl
  have hgrown := h.grown.makeLeaf hfree x
  have hqueued := h.queued.arena_change (makeLeaf_eq u x (s.histAt x))
  have heq : u.enqueueLeaf x = (u.makeLeaf x (s.histAt x)).2.enqueueNode (NodeTree.leaf u.alloc x).root := by
    rw [← hhist]; rfl
  rw [heq]
  exact State.Building.enqueue (t := .leaf u.alloc x) hgrown hqueued h.weights (h.leaves.cons x) hlen

theorem State.Building.mergeTwo {a b : Value × NodeTree} (h : s.Building u xs (a :: b :: q)) (hlen : q.length < pqN)
    (hfree : 0 < u.freeSlots) :
    s.Building u.mergeTwo xs (insertByKey q (a.1 + b.1, .node u.alloc a.2 b.2)) := by
  obtain ⟨hl, hq₁⟩ := h.queued.dequeue
  obtain ⟨hr, hq₂⟩ := hq₁.dequeue
  have harena : u.dequeueNode.2.dequeueNode.2.arena = u.arena := (dequeueNode_arena _).trans (dequeueNode_arena _)
  have halloc : u.dequeueNode.2.dequeueNode.2.alloc = u.alloc := by simp only [State.alloc, harena]
  have hgrown := (h.grown.arena_congr harena).join (freeSlots_of_arena_eq harena ▸ hfree)
  rw [halloc] at hgrown
  have hweight : a.1 + b.1 = (NodeTree.node u.alloc a.2 b.2).weight s.histAt := by
    rw [NodeTree.weight, ← h.weights a (by simp), ← h.weights b (by simp)]
  have hmerge : u.mergeTwo = (u.dequeueNode.2.dequeueNode.2.join a.2.root b.2.root).2.enqueueNode u.alloc := by
    rw [← halloc]
    change (u.dequeueNode.2.dequeueNode.2.join u.dequeueNode.1 u.dequeueNode.2.dequeueNode.1).2.enqueueNode _ = _
    rw [hl, hr]; rfl
  have hleaves : ((NodeTree.node u.alloc a.2 b.2).symbols ++ q.flatMap fun e => e.2.symbols).Perm xs := by
    simpa [NodeTree.symbols] using h.leaves
  rw [hmerge, hweight]
  exact State.Building.enqueue (t := .node u.alloc a.2 b.2) hgrown (hq₂.arena_change (join_eq _ _ _))
    (fun e he => h.weights e (by simp [he])) hleaves hlen

/-- The first loop: a leaf for every symbol, enqueued as the list model does. -/
theorem State.Building.enqueueLeaves (xs' : List Sym) (h : s.Building u xs q) (hlen : q.length + xs'.length ≤ pqN)
    (hfree : xs'.length ≤ u.freeSlots) :
    ∃ q', s.Building (xs'.foldl State.enqueueLeaf u) (xs'.reverse ++ xs) q' ∧ q'.length = q.length + xs'.length ∧
      q'.map blankEntry = (xs'.map fun x => (s.histAt x, NodeTree.leaf nullNode x)).foldl insertByKey (q.map blankEntry) := by
  induction xs' generalizing u xs q with
  | nil => exact ⟨q, h, rfl, rfl⟩
  | cons x xs' ih =>
    simp only [List.length_cons] at hlen hfree
    have h₁ := h.enqueueLeaf (by omega) (by omega) x
    have hlen₁ : (insertByKey q (s.histAt x, .leaf u.alloc x)).length = q.length + 1 := length_insertKeyed _ _ _
    have hfree₁ : (u.enqueueLeaf x).freeSlots + 1 = u.freeSlots := by
      have hcount := h.count
      have hcount₁ := h₁.count
      rw [hlen₁, List.length_cons] at hcount₁
      omega
    obtain ⟨q', h', hlen', hmodel⟩ := ih h₁ (by omega) (by omega)
    refine ⟨q', by simpa using h', by simp; omega, ?_⟩
    rw [hmodel, ← insertByKey_blank]
    rfl

/-- The second loop runs in step with the list model's merging, down to one tree. -/
theorem State.Building.mergeAll (rounds : Nat) (h : s.Building u xs q) (hne : 0 < q.length) (hlen : q.length ≤ pqN)
    (hrounds : q.length ≤ rounds + 1) (hfree : q.length ≤ u.freeSlots + 1) :
    ∃ e, s.Building (u.mergeAll rounds) xs [e] ∧ mergeTrees rounds (q.map blankEntry) = [blankEntry e] := by
  induction rounds generalizing u q with
  | zero =>
    obtain ⟨e, rfl⟩ := List.length_eq_one_iff.1 (Nat.le_antisymm hrounds hne)
    exact ⟨e, h, rfl⟩
  | succ rounds ih =>
    have hsize : u.pqSize = q.length := by simpa using h.queued.pqSize_eq
    match q with
    | [e] =>
      rw [State.mergeAll, hsize, if_neg (by simp)]
      exact ⟨e, h, rfl⟩
    | a :: b :: q =>
      simp only [List.length_cons] at hlen hrounds hfree
      rw [State.mergeAll, hsize, if_pos (by simp)]
      have h₁ := h.mergeTwo (by omega) (by omega)
      have hlen₁ : (insertByKey q (a.1 + b.1, .node u.alloc a.2 b.2)).length = q.length + 1 := length_insertKeyed _ _ _
      have hfree₁ : u.mergeTwo.freeSlots + 1 = u.freeSlots := by
        have hcount := h.count
        have hcount₁ := h₁.count
        rw [hlen₁] at hcount₁
        simp only [List.length_cons] at hcount
        omega
      obtain ⟨e, h', hmodel⟩ := ih h₁ (by omega) (by omega) (by omega) (by omega)
      refine ⟨e, h', ?_⟩
      rw [← hmodel, ← insertByKey_blank]
      rfl

end

/-! ## The histogram's symbols -/

theorem histSymbols_length (s : State) : s.histSymbols.length = s.symbolCount := by
  rw [State.histSymbols, List.filter_map, List.length_map, ← List.countP_eq_length_filter]
  rfl

theorem symbolCount_le (s : State) : s.symbolCount ≤ pqN := by
  unfold State.symbolCount
  exact List.countP_le_length.trans (by simp)

theorem mem_histSymbols (s : State) (x : Sym) : x ∈ s.histSymbols ↔ s.histAt x ≠ 0 := by
  have hall : x ∈ (List.range 256).map (BitVec.ofNat 8) :=
    List.mem_map.2 ⟨x.toNat, List.mem_range.2 (sym_lt x), BitVec.ofNat_toNat 8 x⟩
  rw [State.histSymbols, List.mem_filter, bne_iff_ne]
  exact and_iff_right hall

theorem histSymbols_nodup (s : State) : s.histSymbols.Nodup := by
  refine List.Nodup.filter _ (List.Nodup.map_on (fun a ha b hb hab => ?_) List.nodup_range)
  have h : a % 256 = b % 256 := by simpa using congrArg BitVec.toNat hab
  rw [List.mem_range] at ha hb
  omega

theorem sum_map_filter_ne_zero {α : Type} (f : α → Value) (l : List α) :
    ((l.filter fun a => f a != 0).map f).sum = (l.map f).sum := by
  induction l with
  | nil => rfl
  | cons a l ih =>
    by_cases h : f a = 0
    · rw [List.filter_cons_of_neg (by rw [h]; decide), List.map_cons, List.sum_cons, ih, h, zero_add]
    · rw [List.filter_cons_of_pos (p := fun a => f a != 0) (bne_iff_ne.2 h), List.map_cons, List.map_cons,
        List.sum_cons, List.sum_cons, ih]

/-- Symbols with a count of 0 add nothing to the sum of all counts. -/
theorem histSymbols_sum (s : State) :
    (s.histSymbols.map s.histAt).sum = ((List.range 256).map fun k => s.histAt (BitVec.ofNat 8 k)).sum := by
  rw [State.histSymbols, sum_map_filter_ne_zero, List.map_map]
  rfl

theorem mergedTree_eq (s : State) :
    s.mergedTree = (mergeTrees 256 ((s.histSymbols.map fun x => (s.histAt x, NodeTree.leaf nullNode x)).foldl
      insertByKey [])).head?.map (·.2) := by
  have hsymbols : ((List.range 256).map (BitVec.ofNat 8)).filter (fun x => s.histAt x ≠ 0) = s.histSymbols :=
    List.filter_congr fun x _ => (Bool.eq_iff_iff).2 (by simp)
  rw [State.mergedTree, hsymbols]

/-- BUILD on two symbols or more, with the slots it needs: one tree stands on the queue, the list model's, and is dequeued. -/
theorem execBuild_eq {s : State} (herr : s.err = false) (htwo : 2 ≤ s.symbolCount)
    (hfree : 2 * s.symbolCount - 1 ≤ s.freeSlots) :
    ∃ u e, s.Building u s.histSymbols [e] ∧ s.mergedTree = some e.2.blank ∧
      exec .build s = .next ({ u.dequeueNode.2 with
        root := u.dequeueNode.1, hdrTsize := BitVec.ofNat 16 (3 * s.symbolCount - 1) }.respond .ok (value s.symbolCount)) := by
  have hlen := histSymbols_length s
  have hmax := symbolCount_le s
  have hinit := State.Building.init s
  obtain ⟨q, hq, hqlen, hqmodel⟩ := hinit.enqueueLeaves s.histSymbols (by rw [hlen]; simpa using hmax)
    (by rw [hlen]; change _ ≤ s.freeSlots; omega)
  rw [List.length_nil, Nat.zero_add, hlen] at hqlen
  have hcount := hq.count
  simp only [List.append_nil, List.length_reverse, hlen] at hcount
  obtain ⟨e, he, hmodel⟩ := hq.mergeAll pqN (by omega) (by omega) (by omega) (by omega)
  refine ⟨_, e, he.leaves_perm (by simp), ?_, ?_⟩
  · rw [mergedTree_eq, ← List.map_nil (f := blankEntry), ← hqmodel, hmodel]
    rfl
  · have h₁ : ¬ s.symbolCount < 2 := Nat.not_lt.2 htwo
    have h₂ : ¬ s.freeSlots < 2 * s.symbolCount - 1 := Nat.not_lt.2 hfree
    simp only [exec, execBuild, unlessHalted_running herr, hlen, h₁, h₂, if_false]

/-- Settles O42: both loops keep the queue of grown trees in step with the list model; what is left is one tree, whose slots
`join` and `make_leaf` filled. -/
theorem buildMakesTheTreeOfTheHistogram : Obligations.BuildMakesTheTreeOfTheHistogram := by
  unfold Obligations.BuildMakesTheTreeOfTheHistogram
  intro s herr htwo hfree
  obtain ⟨u, e, hbuild, hmodel, hexec⟩ := execBuild_eq herr htwo hfree
  obtain ⟨hroot, hqueued⟩ := hbuild.queued.dequeue
  have hgrown : s.Grown u s.histAt [e.2] := hbuild.grown
  have hheld := hgrown.holds e.2 (by simp)
  have hperm : e.2.symbols.Perm s.histSymbols := by simpa using hbuild.leaves
  have hleaves : e.2.leafCount = s.symbolCount := by
    rw [← e.2.length_symbols, hperm.length_eq, histSymbols_length]
  have harena := dequeueNode_arena u
  have hempty : u.dequeueNode.2.pqTail = u.dequeueNode.2.pqHead := hqueued.tail_eq_head
  refine ⟨u.arena, u.dequeueNode.2.pqSlots, u.dequeueNode.2.pqHead, e.2.root, ?_, fun n hn => hgrown.keeps_live hn, ?_,
    hheld.root_hasParent, hheld.root_freq.trans ?_, e.2, e.2.blank, State.Grown.madeTree (hgrown.arena_congr rfl),
    fun n hn hleaf => hheld.leaf_freq hn hleaf, hmodel, e.2.sameShape_blank, hperm.nodup_iff.2 (histSymbols_nodup s),
    fun x => hperm.mem_iff.trans (mem_histSymbols s x)⟩
  · rw [hexec, hroot, hqueued.frame, harena, hempty]; rfl
  · rw [← hleaves]; exact hgrown.count_singleton
  · rw [NodeTree.weight_eq_sum, (hperm.map _).sum_eq, histSymbols_sum]

end Sys2Proof.Machine
end

section
/-! SUPPORT. How a command ends and what it may write, said once for all 48 commands (spec/60_exceptions.md R350 to R354): each
ends in an answer on the state it has brought about, or where a channel never answers. -/

namespace Sys2Proof.Machine

/-! ## Writing stores -/

theorem sameStore_refl (s : State) (st : Store) : s.sameStore s st := by cases st <;> simp [State.sameStore]

theorem sameStore_trans {s u v : State} {st : Store} (h : s.sameStore u st) (h' : u.sameStore v st) : s.sameStore v st := by
  cases st <;> simp_all [State.sameStore]

/-- From s to u only stores of w were written, nothing was taken from the port, and the error halt was not entered. -/
structure State.Wrote (s : State) (w : List Store) (u : State) : Prop where
  params : u.params = s.params
  port   : u.port = s.port
  err    : s.err = false → u.err = false
  stores : ∀ st, st ∉ w → s.sameStore u st

/-- s with one store as it is in u. -/
def State.takeStore (s u : State) : Store → State
  | .header => { s with hdrPerms := u.hdrPerms, hdrTsize := u.hdrTsize, hdrFsize := u.hdrFsize }
  | .root => { s with root := u.root }
  | .hist => { s with hist := u.hist }
  | .arena => { s with arena := u.arena }
  | .queue => { s with pqSlots := u.pqSlots, pqHead := u.pqHead, pqTail := u.pqTail }
  | .stack => { s with nse := u.nse, nsTop := u.nsTop, nsCap := u.nsCap }
  | .bitCode => { s with bc := u.bc }
  | .codeTable => { s with ct := u.ct }
  | .buffer => { s with buf := u.buf }
  | .cursors => { s with wrCur := u.wrCur, rdCur := u.rdCur, rdEnd := u.rdEnd }
  | .source => { s with source := u.source, taken := u.taken }
  | .sink => { s with sinkPlan := u.sinkPlan, sink := u.sink }
  | .draws => { s with draws := u.draws }

/-- s with the stores of w as they are in u. -/
def State.takeStores (s u : State) (w : List Store) : State := w.foldl (fun v st => v.takeStore u st) s

section
variable {s u v : State} {w w' : List Store}

theorem State.Wrote.refl (s : State) (w : List Store) : s.Wrote w s := ⟨rfl, rfl, id, fun st _ => sameStore_refl s st⟩

theorem State.Wrote.trans (h : s.Wrote w u) (h' : u.Wrote w v) : s.Wrote w v :=
  ⟨h'.params.trans h.params, h'.port.trans h.port, fun he => h'.err (h.err he),
    fun st hst => sameStore_trans (h.stores st hst) (h'.stores st hst)⟩

theorem State.Wrote.mono (h : s.Wrote w' u) (hw : w' ⊆ w := by simp [mayWrite]) : s.Wrote w u :=
  ⟨h.params, h.port, h.err, fun st hst => h.stores st fun hm => hst (hw hm)⟩

theorem wrote_takeStore (s u : State) (st : Store) : s.Wrote [st] (s.takeStore u st) := by
  refine ⟨by cases st <;> rfl, by cases st <;> rfl, by cases st <;> exact id, fun st' hne => ?_⟩
  cases st <;> cases st' <;> simp_all [State.sameStore, State.takeStore]

theorem wrote_takeStores (w : List Store) (s u : State) : s.Wrote w (s.takeStores u w) := by
  induction w generalizing s with
  | nil => exact .refl s _
  | cons st w ih => exact (wrote_takeStore s u st).mono.trans (ih (s.takeStore u st)).mono

/-- A state that is s but for the stores of w. -/
theorem State.Wrote.of_eq (h : u = s.takeStores u w) : s.Wrote w u := by
  have := wrote_takeStores w s u
  rwa [← h] at this

end

/-- A reset writes every store but the two channels, and leaves the error halt (70_reset_and_hazards.md R381, R383). -/
theorem wrote_resetBlock (s : State) : s.Wrote (mayWrite .reset) s.resetBlock :=
  ⟨rfl, rfl, fun _ => rfl, fun st hst => by cases st <;> simp_all [mayWrite, State.sameStore]⟩

theorem wrote_makeLeaf (s : State) (x : Sym) (f : Value) : s.Wrote [.arena] (s.makeLeaf x f).2 := .of_eq (makeLeaf_eq s x f)

theorem wrote_join (s : State) (l r : NodeIx) : s.Wrote [.arena] (s.join l r).2 := .of_eq (join_eq s l r)

theorem wrote_freeTree (s : State) (t : NodeTree) : s.Wrote [.arena, .root] (s.freeTree t) := by
  unfold State.freeTree
  induction t.postorder generalizing s with
  | nil => exact .refl s _
  | cons n ns ih =>
    have h : s.Wrote [.arena, .root] (s.freeNode n) := by rw [freeNode_eq]; exact .of_eq rfl
    exact h.trans (ih _)

theorem wrote_pqEnqueue {s t : State} {n : NodeIx} (h : s.pqEnqueue n = some t) : s.Wrote [.queue] t := by
  rw [(pqEnqueue_eq h).2]; exact .of_eq rfl

theorem wrote_pqDequeue {s t : State} {n : NodeIx} (h : s.pqDequeue = some (n, t)) : s.Wrote [.queue] t := by
  rw [(pqDequeue_eq h).2.2]; exact .of_eq rfl

theorem wrote_nsPush {s t : State} {n : NodeIx} (h : s.nsPush n = some t) : s.Wrote [.stack] t := by
  rw [(nsPush_eq h).2]; exact .of_eq rfl

theorem wrote_nsPop {s t : State} {n : NodeIx} (h : s.nsPop = some (n, t)) : s.Wrote [.stack] t := by
  rw [(nsPop_eq h).2.2]; exact .of_eq rfl

theorem wrote_sourceRead {s t : State} {n : Nat} {bs : List Byte} (h : s.sourceRead n = some (bs, t)) :
    s.Wrote [.source] t := by
  rw [(sourceRead_eq h).2]; exact .of_eq rfl

theorem wrote_sinkWrite {s t : State} {bs : List Byte} {w : Nat} (h : s.sinkWrite bs = some (w, t)) : s.Wrote [.sink] t := by
  rw [sinkWrite_eq h]; exact .of_eq rfl

theorem wrote_pad (count : Nat) (s : State) (i : Nat) : s.Wrote [.buffer, .draws] (s.pad i count) := by
  induction count generalizing s i with
  | zero => exact .refl s _
  | succ count ih =>
    have h : s.Wrote [.buffer, .draws] { s.setBufBit i (Config.freeBit s.draws) with draws := s.draws + 1 } := .of_eq rfl
    exact h.trans (ih _ _)

theorem wrote_recordCodes (t : NodeTree) (s : State) (c : BitCode) : s.Wrote [.codeTable] (s.recordCodes c t) := by
  induction t generalizing s c with
  | leaf n x => exact .of_eq rfl
  | node n l r ihl ihr => exact (ihl s _).trans (ihr _ _)

/-! ## Ways to end a command -/

/-- A command on s may have this outcome, where P holds of the state it answers on: refused in the error halt, answered with a
code that is not fatal, an error raised, or stopped by a channel or by an arena that is no forest. -/
inductive State.Ends (s : State) (P : State → Prop) : Result → Prop
  | refused {c : Code} {v : Value} (h : P s) (he : s.err = true) : s.Ends P (.next (s.reply c v))
  | responded {u : State} {c : Code} {v : Value} (h : P u) (he : s.err = false ∨ u.err = false)
      (hfatal : c.isFatal = false := by rfl) (hstored : c ≠ .halted := by decide) : s.Ends P (.next (u.respond c v))
  | raised {u : State} {c : Code} {v : Value} (h : P u) (hfatal : c.isFatal = true := by rfl) : s.Ends P (.next (u.raise c v))
  | sourceStops : s.Ends P (.fault .sourceNeverAnswers)
  | sinkStops : s.Ends P (.fault .sinkNeverAnswers)
  | noTree {n : NodeIx} (hv : s.valid n = true) (ht : s.treeAt n = none) : s.Ends P (.fault .arenaNotForest)

/-- A predicate that a SinkWrite keeps. -/
def KeptBySink (P : State → Prop) : Prop := ∀ u t bs w, P u → u.sinkWrite bs = some (w, t) → P t

/-- A predicate that the bit reader keeps (46_bitstream.md R311). -/
structure KeptByReads (P : State → Prop) : Prop where
  bit       : ∀ u t b, P u → u.readBit = .bit b t → P t
  exhausted : ∀ u t, P u → u.readBit = .exhausted t → P t

/-- A predicate that the bit writer keeps, up to the error raised for a refused block (46_bitstream.md R310). -/
structure KeptByWrites (P : State → Prop) : Prop where
  done   : ∀ u t b, P u → u.writeBit b = .done t → P t
  raised : ∀ u t b, P u → u.writeBit b = .raised t → ∃ v w, P v ∧ t = v.raise .eSink w

section
variable {s : State} {P : State → Prop} {k : Result}

/-- The error halt's check: refused there (R354), else as the rest of the command ends. -/
theorem ends_unlessHalted (h : P s) (hk : s.err = false → s.Ends P k) : s.Ends P (s.unlessHalted k) := by
  cases he : s.err with
  | false => rw [unlessHalted_running he]; exact hk he
  | true => rw [unlessHalted_halted he]; exact .refused h he

theorem ends_withNode {n : NodeIx} (h : P s) (hk : s.valid n = true → s.Ends P k) : s.Ends P (s.withNode n k) := by
  cases hv : s.valid n with
  | true => rw [withNode_valid hv]; exact hk hv
  | false => rw [withNode_invalid hv]; exact .raised h

theorem ends_withTree {n : NodeIx} {k : NodeTree → Result} (hv : s.valid n = true)
    (hk : ∀ t, s.treeAt n = some t → s.Ends P (k t)) : s.Ends P (s.withTree n k) := by
  cases ht : s.treeAt n with
  | none => rw [State.withTree, ht]; exact .noTree hv ht
  | some t => rw [withTree_some ht]; exact hk t ht

theorem ends_withBufIndex {i : BitVec 16} {u : State} (h : P s) (hu : i.toNat < s.bufBits → s.Ends P (.next u)) :
    s.Ends P (.next (s.withBufIndex i u)) := by
  unfold State.withBufIndex
  split
  · exact .raised h
  · exact hu (by omega)

theorem ends_sendThenRespond (he : s.err = false) (h : P s) (hP : KeptBySink P) (bs : List Byte) (v : Value) :
    s.Ends P (s.sendThenRespond bs v) := by
  unfold State.sendThenRespond
  split
  · rename_i hw
    have ht := hP _ _ _ _ h hw
    split
    · exact .raised ht
    · exact .responded ht (.inl he)
  · exact .sinkStops

/-- The bits of a code are written, up to the error raised for the first refused block. -/
theorem KeptByWrites.writeBits (hP : KeptByWrites P) (bs : List Bool) {u : State} (hu : P u) :
    (∀ t, u.writeBits bs = .done t → P t) ∧ ∀ t, u.writeBits bs = .raised t → ∃ v w, P v ∧ t = v.raise .eSink w := by
  induction bs generalizing u with
  | nil => exact ⟨fun t ht => by cases ht; exact hu, fun t ht => by cases ht⟩
  | cons b bs ih =>
    cases hb : u.writeBit b with
    | done t => simp only [State.writeBits, hb]; exact ih (hP.done u t b hu hb)
    | raised t =>
      simp only [State.writeBits, hb]
      exact ⟨fun t ht => (by cases ht), fun t ht => by cases ht; exact hP.raised u _ b hu hb⟩
    | never => simp only [State.writeBits, hb]; exact ⟨fun t ht => (by cases ht), fun t ht => by cases ht⟩

theorem ends_writeThenRespond (he : s.err = false) (h : P s) (hP : KeptByWrites P) (c : BitCode) :
    s.Ends P (s.writeThenRespond c) := by
  obtain ⟨hdone, hraised⟩ := hP.writeBits c.toList h
  unfold State.writeThenRespond
  split
  · rename_i t ht; exact .responded (hdone t ht) (.inl he)
  · rename_i t ht
    obtain ⟨u, w, hu, rfl⟩ := hraised t ht
    exact .raised hu
  · exact .sinkStops

/-- decode_symbol only reads, whether it ends in a symbol or in exhaustion. -/
theorem KeptByReads.decodeSymbol (hP : KeptByReads P) (tr : NodeTree) {u : State} (hu : P u) (j : Nat) :
    (∀ x t, u.decodeSymbol tr j = .symbol x t → P t) ∧ ∀ i t, u.decodeSymbol tr j = .exhausted i t → P t := by
  induction tr generalizing u j with
  | leaf n x => exact ⟨fun y t h => by cases h; exact hu, fun i t h => by cases h⟩
  | node n l r ihl ihr =>
    cases hb : u.readBit with
    | exhausted t =>
      simp only [State.decodeSymbol, hb]
      exact ⟨fun x t h => (by cases h), fun i t h => by cases h; exact hP.exhausted u _ hu hb⟩
    | never =>
      simp only [State.decodeSymbol, hb]
      exact ⟨fun x t h => (by cases h), fun i t h => by cases h⟩
    | bit b t =>
      have ht := hP.bit u t b hu hb
      cases b <;> simp only [State.decodeSymbol, hb]
      · exact ihl ht _
      · exact ihr ht _

theorem ends_decodeLoop (he : s.err = false) (hP : KeptByReads P) (hsink : KeptBySink P) (tr : NodeTree) (left : Nat)
    {u : State} (hu : P u) (k : Nat) : s.Ends P (u.decodeLoop tr left k) := by
  induction left generalizing u k with
  | zero => exact .responded hu (.inl he)
  | succ left ih =>
    obtain ⟨hsymbol, hexhausted⟩ := hP.decodeSymbol tr hu 0
    unfold State.decodeLoop
    split
    · rename_i h; exact .raised (hexhausted _ _ h)
    · exact .sourceStops
    · rename_i x t h
      split
      · exact .sinkStops
      · rename_i w t' hw
        have ht' := hsink _ _ _ _ (hsymbol _ _ h) hw
        split
        · exact .raised ht'
        · exact ih ht' _

end
end Sys2Proof.Machine
end

section
/-! SUPPORT. The ending of each command that writes a store, for any predicate that its writes keep (spec/60_exceptions.md R350);
for BUILD and DESERIALIZE through the tree they grow. -/

namespace Sys2Proof.Machine

/-! ## What check_dump accepts -/

/-- The dumps of the trees on the scan's stack, the last one on top. -/
def stackDump (ts : List NodeTree) : List Byte := ts.reverse.flatMap NodeTree.dump

theorem stackDump_leaf (ts : List NodeTree) (x : Sym) (rest : List Byte) :
    stackDump ts ++ markLeaf :: x :: rest = stackDump (.leaf nullNode x :: ts) ++ rest := by
  simp [stackDump, NodeTree.dump]

theorem stackDump_node (ts : List NodeTree) (l r : NodeTree) (rest : List Byte) :
    stackDump (r :: l :: ts) ++ markNode :: rest = stackDump (.node nullNode l r :: ts) ++ rest := by
  simp [stackDump, NodeTree.dump]

/-- A dump that check_dump accepts starts with a leaf's two bytes or with the mark of a node, at depth 2 or more. -/
theorem checkDump_cons_good {m : Byte} {t : List Byte} {i d leaves n : Nat} (h : checkDump (m :: t) i d leaves = .good n) :
    (∃ x rest, m = markLeaf ∧ t = x :: rest ∧ checkDump rest (i + 2) (d + 1) (leaves + 1) = .good n) ∨
    (m = markNode ∧ 2 ≤ d ∧ checkDump t (i + 1) (d - 1) leaves = .good n) := by
  by_cases hl : m = markLeaf
  · subst hl
    cases t with
    | nil => simp [checkDump] at h
    | cons x rest => exact .inl ⟨x, rest, rfl, rfl, checkDump_leaf x rest i d leaves ▸ h⟩
  by_cases hn : m = markNode
  · subst hn
    by_cases hd : d < 2
    · cases t <;> simp [checkDump, hl, hd] at h
    · exact .inr ⟨rfl, Nat.not_lt.1 hd, checkDump_node t i d leaves (Nat.not_lt.1 hd) ▸ h⟩
  · cases t <;> simp [checkDump, hl, hn] at h

/-- What check_dump accepts from depth d on completes any d dumps to the dump of one tree (45_tree_codes.md R290). -/
theorem exists_dump_of_checkDump {t : List Byte} {i d leaves n : Nat} (h : checkDump t i d leaves = .good n)
    {ts : List NodeTree} (hd : ts.length = d) : ∃ tr : NodeTree, stackDump ts ++ t = tr.dump := by
  induction hlen : t.length using Nat.strong_induction_on generalizing t i d leaves ts with
  | _ k ih =>
    subst hlen
    cases t with
    | nil =>
      have hone : d = 1 := by by_contra hne; simp [checkDump, hne] at h
      obtain ⟨tr, rfl⟩ := List.length_eq_one_iff.1 (hd.trans hone)
      exact ⟨tr, by simp [stackDump]⟩
    | cons m t =>
      obtain ⟨x, rest, rfl, rfl, hrest⟩ | ⟨rfl, htwo, hrest⟩ := checkDump_cons_good h
      · rw [stackDump_leaf]
        exact ih rest.length (by simp) hrest (by simp [hd]) rfl
      · match ts with
        | r :: l :: ts =>
          rw [stackDump_node]
          exact ih t.length (by simp) hrest (by simp at hd ⊢; omega) rfl
        | [_] | [] => simp at hd; omega

/-- An accepted dump is the dump of a tree with the leaves counted. -/
theorem dump_of_checkDump {t : List Byte} {n : Nat} (h : checkDump t 0 0 0 = .good n) :
    ∃ tr : NodeTree, t = tr.dump ∧ tr.leafCount = n := by
  obtain ⟨tr, ht⟩ := exists_dump_of_checkDump h (ts := []) rfl
  have ht : t = tr.dump := ht
  rw [ht, checkDump_of_dump] at h
  exact ⟨tr, ht, DumpCheck.good.inj h⟩

/-! ## The commands -/

section
variable {s : State} {P : State → Prop}

theorem execRegWrite_ends (r : BitVec 16) (v : BitVec 64) (h : P s) (hperms : ∀ p, P { s with hdrPerms := p })
    (htsize : ∀ n, P { s with hdrTsize := n }) (hfsize : ∀ n, P { s with hdrFsize := n })
    (hroot : v.toNat = 0xFFFF ∨ v.toNat < nodeCap → P { s with root := v.setWidth 16 }) : s.Ends P (execRegWrite r v s) := by
  refine ends_unlessHalted h fun he => ?_
  split
  · split
    · exact .raised h
    · exact .responded (hperms _) (.inl he)
  · split
    · exact .raised h
    · exact .responded (htsize _) (.inl he)
  · exact .responded (hfsize _) (.inl he)
  · split
    · rename_i hv; exact .responded (hroot hv) (.inl he)
    · exact .raised h
  · exact .raised h

theorem execRegRead_ends (r : BitVec 16) (h : P s) : s.Ends P (execRegRead r s) := by
  unfold execRegRead
  cases he : s.err <;> split
  · exact .responded h (.inl he)
  · exact .raised h
  · exact .refused h he
  · exact .refused h he

theorem execBcPush_ends (b : Bool) (h : P s) (hpush : ∀ c, s.bc.push b = some c → P { s with bc := c }) :
    s.Ends P (execBcPush b s) := by
  refine ends_unlessHalted h fun he => ?_
  split
  · rename_i c hc; exact .responded (hpush c hc) (.inl he)
  · exact .responded h (.inl he)

theorem execBcPop_ends (h : P s) (hpop : ∀ b c, s.bc.pop = some (b, c) → P { s with bc := c }) : s.Ends P (execBcPop s) := by
  refine ends_unlessHalted h fun he => ?_
  split
  · rename_i b c hc; exact .responded (hpop b c hc) (.inl he)
  · exact .responded h (.inl he)

theorem execCtLoadBc_ends (x : Sym) (h : P s) (hload : P { s with bc := (s.ctAt x).code }) : s.Ends P (execCtLoadBc x s) := by
  refine ends_unlessHalted h fun he => ?_
  split
  · exact .raised h
  · exact .responded hload (.inl he)

theorem execCodeTable_ends (h : P s) (hcodes : ∀ t, P (s.invalidateCt.recordCodes BitCode.empty t)) :
    s.Ends P (execCodeTable s) :=
  ends_unlessHalted h fun he => ends_withNode h fun hv => ends_withTree hv fun t _ => .responded (hcodes t) (.inl he)

theorem execPqEnq_ends (n : NodeIx) (h : P s) (henq : ∀ t, s.pqEnqueue n = some t → P t) : s.Ends P (execPqEnq n s) := by
  refine ends_unlessHalted h fun he => ends_withNode h fun _ => ?_
  split
  · rename_i t ht; exact .responded (henq t ht) (.inl he)
  · exact .responded h (.inl he)

theorem execPqDeq_ends (h : P s) (hdeq : ∀ n t, s.pqDequeue = some (n, t) → P t) : s.Ends P (execPqDeq s) := by
  refine ends_unlessHalted h fun he => ?_
  split
  · rename_i n t ht; exact .responded (hdeq n t ht) (.inl he)
  · exact .responded h (.inl he)

theorem execNsInit_ends (c : BitVec 16) (h : P s) (hinit : c.toNat ≤ nsMax → P { s with nsCap := c.toNat, nsTop := 0 }) :
    s.Ends P (execNsInit c s) := by
  refine ends_unlessHalted h fun he => ?_
  split
  · exact .raised h
  · rename_i hc; exact .responded (hinit (Nat.not_lt.1 hc)) (.inl he)

theorem execNsPush_ends (n : NodeIx) (h : P s) (hpush : ∀ t, s.nsPush n = some t → P t) : s.Ends P (execNsPush n s) := by
  refine ends_unlessHalted h fun he => ends_withNode h fun _ => ?_
  split
  · rename_i t ht; exact .responded (hpush t ht) (.inl he)
  · exact .responded h (.inl he)

theorem execNsPop_ends (h : P s) (hpop : ∀ n t, s.nsPop = some (n, t) → P t) : s.Ends P (execNsPop s) := by
  refine ends_unlessHalted h fun he => ?_
  split
  · rename_i n t ht; exact .responded (hpop n t ht) (.inl he)
  · exact .responded h (.inl he)

theorem execNodeLeaf_ends (x : Sym) (f : Value) (h : P s) (hleaf : 0 < s.freeSlots → P (s.makeLeaf x f).2) :
    s.Ends P (execNodeLeaf x f s) := by
  refine ends_unlessHalted h fun he => ?_
  split
  · exact .responded h (.inl he)
  · rename_i hfree; exact .responded (hleaf (Nat.pos_of_ne_zero hfree)) (.inl he)

/-- What NODE_JOIN has checked when it joins (44_tree.md R244). -/
structure State.Joinable (s : State) (l r : NodeIx) : Prop where
  left   : s.valid l = true ∧ (s.node l).hasParent = false
  right  : s.valid r = true ∧ (s.node r).hasParent = false
  ne     : l ≠ r
  free   : 0 < s.freeSlots

theorem execNodeJoin_ends (l r : NodeIx) (h : P s) (hjoin : s.Joinable l r → P (s.join l r).2) :
    s.Ends P (execNodeJoin l r s) := by
  refine ends_unlessHalted h fun he => ends_withNode h fun hl => ends_withNode h fun hr => ?_
  split
  · exact .raised h
  rename_i hne
  split
  · exact .raised h
  rename_i hpl
  split
  · exact .raised h
  rename_i hpr
  split
  · exact .responded h (.inl he)
  rename_i hfree
  rw [Bool.not_eq_true] at hpl hpr
  exact .responded (hjoin ⟨⟨hl, hpl⟩, ⟨hr, hpr⟩, hne, Nat.pos_of_ne_zero hfree⟩) (.inl he)

theorem execNodeRead_ends (f : BitVec 8) (n : NodeIx) (h : P s) : s.Ends P (execNodeRead f n s) := by
  refine ends_unlessHalted h fun he => ?_
  split
  · exact .raised h
  · exact ends_withNode h fun _ => .responded h (.inl he)

theorem execRelease_ends (n : NodeIx) (h : P s)
    (hrelease : ∀ t, s.valid n = true → (s.node n).hasParent = false → s.treeAt n = some t → P (s.freeTree t)) :
    s.Ends P (execRelease n s) := by
  refine ends_unlessHalted h fun he => ends_withNode h fun hv => ?_
  split
  · exact .raised h
  · rename_i hp
    exact ends_withTree hv fun t ht => .responded (hrelease t hv (Bool.not_eq_true _ ▸ hp) ht) (.inl he)

/-- BUILD ends on s, or on the state with one tree built, dequeued and made ROOT. -/
theorem execBuild_ends (h : P s) (hbuilt : ∀ u e, s.Building u s.histSymbols [e] →
      P { u.dequeueNode.2 with root := u.dequeueNode.1, hdrTsize := BitVec.ofNat 16 (3 * s.symbolCount - 1) }) :
    s.Ends P (execBuild s) := by
  cases he : s.err with
  | true => exact ends_unlessHalted h fun he' => absurd (he.symm.trans he') (by decide)
  | false =>
    by_cases hready : 2 ≤ s.symbolCount ∧ 2 * s.symbolCount - 1 ≤ s.freeSlots
    · obtain ⟨u, e, hu, -, hexec⟩ := execBuild_eq he hready.1 hready.2
      change s.Ends P (exec .build s)
      rw [hexec]
      exact .responded (hbuilt u e hu) (.inl he)
    · refine ends_unlessHalted h fun _ => ?_
      dsimp only
      rw [histSymbols_length]
      split
      · exact .raised h
      rename_i htwo
      split
      · exact .raised h
      rename_i hfree
      exact absurd ⟨Nat.not_lt.1 htwo, Nat.not_lt.1 hfree⟩ hready

/-- DESERIALIZE ends on s, after the read, or with one tree rebuilt, the stack empty, and made ROOT. -/
theorem execDeserialize_ends (h : P s) (hread : ∀ n bs u, s.sourceRead n = some (bs, u) → P u)
    (hrebuilt : ∀ n bs u v t, s.sourceRead n = some (bs, u) → u.Grown v placeholderWeight [t] →
      v = { u with arena := v.arena, nse := v.nse, nsTop := 0, nsCap := bs.length } → bs.length ≤ nsMax →
      P { v with root := t.root }) :
    s.Ends P (execDeserialize s) := by
  refine ends_unlessHalted h fun he => ?_
  dsimp only
  split
  · exact .raised h
  rename_i hsize
  split
  · exact .sourceStops
  rename_i bs u hbs
  have hu := hread _ _ _ hbs
  split
  · exact .raised hu
  split
  · exact .raised hu
  rename_i leaves hcheck
  split
  · exact .raised hu
  rename_i hfree
  obtain ⟨tr, rfl, rfl⟩ := dump_of_checkDump hcheck
  have hmax : tr.dump.length ≤ nsMax := (sourceRead_eq hbs).1.trans (Nat.not_lt.1 hsize)
  have hleaves : tr.leafCount ≤ 256 := by
    have := tr.length_dump
    change tr.dump.length ≤ 767 at hmax
    omega
  obtain ⟨v, t, -, hrebuild, hgrown, hframe⟩ := rebuild_dump hleaves (Nat.not_lt.1 hfree)
  rw [hrebuild]
  exact .responded (hrebuilt _ _ u v t hbs hgrown hframe hmax) (.inl he)

theorem execReadBit_ends (h : P s) (hP : KeptByReads P) : s.Ends P (execReadBit s) := by
  refine ends_unlessHalted h fun he => ?_
  split
  · rename_i hb; exact .responded (hP.bit _ _ _ h hb) (.inl he)
  · rename_i hb; exact .responded (hP.exhausted _ _ h hb) (.inl he)
  · exact .sourceStops

theorem execWriteCode_ends (x : Sym) (h : P s) (hP : KeptByWrites P) : s.Ends P (execWriteCode x s) := by
  refine ends_unlessHalted h fun he => ?_
  split
  · exact .raised h
  · exact ends_writeThenRespond he h hP _

theorem execFlush_ends (h : P s) (hsent : ∀ n w u, n = (s.wrCur + 7) / 8 →
      (s.pad s.wrCur (8 * n - s.wrCur)).sinkWrite ((s.pad s.wrCur (8 * n - s.wrCur)).bufBytes n) = some (w, u) →
      P { u with wrCur := 0 }) :
    s.Ends P (execFlush s) := by
  refine ends_unlessHalted h fun he => ?_
  dsimp only
  split
  · exact .sinkStops
  · rename_i hw
    have hu := hsent _ _ _ rfl hw
    split
    · exact .raised hu
    · exact .responded hu (.inl he)

theorem execDecSym_ends (h : P s) (hP : KeptByReads P) : s.Ends P (execDecSym s) := by
  refine ends_unlessHalted h fun he => ends_withNode h fun hv => ?_
  split
  · exact .raised h
  refine ends_withTree hv fun t _ => ?_
  obtain ⟨hsymbol, hexhausted⟩ := hP.decodeSymbol t h 0
  split
  · rename_i ht; exact .responded (hsymbol _ _ ht) (.inl he)
  · rename_i ht; exact .raised (hexhausted _ _ ht)
  · exact .sourceStops

theorem execDecodeAll_ends (h : P s) (hP : KeptByReads P) (hsink : KeptBySink P) : s.Ends P (execDecodeAll s) := by
  refine ends_unlessHalted h fun he => ends_withNode h fun hv => ?_
  split
  · exact .responded h (.inl he)
  split
  · exact .raised h
  exact ends_withTree hv fun t _ => ends_decodeLoop he hP hsink t _ h 0

theorem execHdrRead_ends (h : P s) (hread : ∀ bs u, s.sourceRead 16 = some (bs, u) →
      P u ∧ ∀ p n f, P { u with hdrPerms := p, hdrTsize := n, hdrFsize := f }) : s.Ends P (execHdrRead s) := by
  refine ends_unlessHalted h fun he => ?_
  split
  · exact .sourceStops
  rename_i hbs
  obtain ⟨hu, hfields⟩ := hread _ _ hbs
  dsimp only
  split
  · exact .raised hu
  split
  · exact .raised hu
  · exact .responded (hfields _ _ _) (.inl he)

end
end Sys2Proof.Machine
end

section
/-! SUPPORT. The frame of every command (spec/10_state.md R36 to R47), and what follows from how commands end. -/

namespace Sys2Proof.Machine

/-! ## Frames -/

section
variable {s : State} {w : List Store}

theorem keptBySink_wrote (hw : .sink ∈ w := by simp [mayWrite]) : KeptBySink (s.Wrote w) :=
  fun _ _ _ _ hu h => hu.trans ((wrote_sinkWrite h).mono (by simpa))

theorem keptByReads_wrote (hw : [.source, .buffer, .cursors] ⊆ w := by simp [mayWrite]) : KeptByReads (s.Wrote w) where
  bit u t b hu h := hu.trans (.mono (.of_eq (w := [.source, .buffer, .cursors]) (by rw [readBit_bit h]; rfl)) hw)
  exhausted u t hu h := hu.trans (.mono (.of_eq (w := [.source, .buffer, .cursors]) (by rw [(readBit_exhausted h).2]; rfl)) hw)

end

theorem keptByWrites_wrote (s : State) : KeptByWrites (s.Wrote [.buffer, .cursors, .sink]) where
  done u t b hu h := hu.trans (.of_eq (by rw [(writeBit_done h).2]; rfl))
  raised u t b hu h := by
    obtain ⟨n, plan, sink, -, rfl⟩ := writeBit_raised h
    exact ⟨_, value n, hu.trans (.of_eq rfl), rfl⟩

theorem execBuild_writes (s : State) : s.Ends (s.Wrote [.arena, .queue, .root, .header]) (execBuild s) := by
  refine execBuild_ends (.refl s _) fun u e hu => .of_eq ?_
  obtain ⟨-, hq⟩ := State.Queued.dequeue hu.queued
  rw [hq.frame]
  rfl

theorem execDeserialize_writes (s : State) : s.Ends (s.Wrote [.source, .arena, .stack, .root]) (execDeserialize s) := by
  refine execDeserialize_ends (.refl s _) (fun n bs u h => (wrote_sourceRead h).mono) fun n bs u v t h _ hframe _ => ?_
  rw [hframe]
  exact (wrote_sourceRead h).mono.trans (.mono (w' := [.arena, .stack, .root]) (.of_eq rfl))

theorem execFlush_writes (s : State) : s.Ends (s.Wrote [.buffer, .cursors, .sink, .draws]) (execFlush s) :=
  execFlush_ends (.refl s _) fun _ _ _ _ h =>
    ((wrote_pad _ s _).mono.trans (wrote_sinkWrite h).mono).trans (.mono (w' := [.cursors]) (.of_eq rfl))

/-- How each of the 48 commands ends, in every state: it has written only the stores it may write. -/
theorem exec_ends (i : Instr) (s : State) : s.Ends (s.Wrote (mayWrite i)) (exec i s) := by
  have h : ∀ w, s.Wrote w s := .refl s
  cases i with
  | reset => exact .responded (wrote_resetBlock s) (.inr rfl)
  | regRead r => exact execRegRead_ends r (h _)
  | regWrite r v =>
    have hheader : ∀ p n f, s.Wrote [.header, .root] { s with hdrPerms := p, hdrTsize := n, hdrFsize := f } :=
      fun p n f => .of_eq rfl
    exact execRegWrite_ends r v (h _) (fun p => hheader p _ _) (fun n => hheader _ n _) (fun f => hheader _ _ f)
      fun _ => .of_eq rfl
  | bcPush b => exact execBcPush_ends b (h _) fun _ _ => .of_eq rfl
  | bcPop => exact execBcPop_ends (h _) fun _ _ _ => .of_eq rfl
  | ctLoadBc x => exact execCtLoadBc_ends x (h _) (.of_eq rfl)
  | pqEnq n => exact execPqEnq_ends n (h _) fun _ ht => wrote_pqEnqueue ht
  | pqDeq => exact execPqDeq_ends (h _) fun _ _ ht => wrote_pqDequeue ht
  | nsInit c => exact execNsInit_ends c (h _) fun _ => .of_eq rfl
  | nsPush n => exact execNsPush_ends n (h _) fun _ ht => wrote_nsPush ht
  | nsPop => exact execNsPop_ends (h _) fun _ _ ht => wrote_nsPop ht
  | nodeLeaf x f => exact execNodeLeaf_ends x f (h _) fun _ => wrote_makeLeaf s x f
  | nodeJoin l r => exact execNodeJoin_ends l r (h _) fun _ => wrote_join s l r
  | nodeRead f n => exact execNodeRead_ends f n (h _)
  | release n => exact execRelease_ends n (h _) fun t _ _ _ => wrote_freeTree s t
  | build => exact execBuild_writes s
  | codeTable => exact execCodeTable_ends (h _) fun t => State.Wrote.trans (.of_eq rfl) (wrote_recordCodes t _ _)
  | deserialize => exact execDeserialize_writes s
  | readBit => exact execReadBit_ends (h _) keptByReads_wrote
  | decSym => exact execDecSym_ends (h _) keptByReads_wrote
  | decodeAll => exact execDecodeAll_ends (h _) keptByReads_wrote keptBySink_wrote
  | writeCode x => exact execWriteCode_ends x (h _) (keptByWrites_wrote s)
  | writeBc => exact ends_unlessHalted (h _) fun he => ends_writeThenRespond he (h _) (keptByWrites_wrote s) _
  | flush => exact execFlush_writes s
  | hdrRead =>
    exact execHdrRead_ends (h _) fun _ _ hbs => ⟨(wrote_sourceRead hbs).mono,
      fun _ _ _ => (wrote_sourceRead hbs).mono.trans (.mono (w' := [.header]) (.of_eq rfl))⟩
  | nop | bcSize | bcIsEmpty | bcIsFull | pqSize | pqIsEmpty | pqIsFull | nsSize | histGet x | ctLen x =>
    exact ends_unlessHalted (h _) fun he => .responded (h _) (.inl he)
  | bcClear | pqClear | histClear | histSet x c | histAdd x c | bsReset =>
    exact ends_unlessHalted (h _) fun he => .responded (.of_eq rfl) (.inl he)
  | setBit k | clrBit k | getBit k =>
    exact ends_unlessHalted (h _) fun he => ends_withBufIndex (h _) fun _ => .responded (.of_eq rfl) (.inl he)
  | bcRender | hdrWrite => exact ends_unlessHalted (h _) fun he => ends_sendThenRespond he (h _) keptBySink_wrote _ _
  | serialize =>
    exact ends_unlessHalted (h _) fun he => ends_withNode (h _) fun hv => ends_withTree hv fun t _ =>
      ends_sendThenRespond he (h _) keptBySink_wrote _ _
  | ctBit x k =>
    refine ends_unlessHalted (h _) fun he => ?_
    split
    · exact .raised (h _)
    split
    · exact .raised (h _)
    · exact .responded (h _) (.inl he)

/-- Answering writes no store. -/
theorem State.Ends.wrote {s t : State} {w : List Store} (h : s.Ends (s.Wrote w) (.next t)) :
    t.params = s.params ∧ t.port = s.port ∧ ∀ st, st ∉ w → s.sameStore t st := by
  cases h with
  | refused h => exact ⟨h.params, h.port, h.stores⟩
  | responded h => exact ⟨h.params, h.port, h.stores⟩
  | raised h => exact ⟨h.params, h.port, h.stores⟩

/-- Settles O18: the frame of the state each command answers on is the frame of the command. -/
theorem everyCommandKeepsItsFrame : Obligations.EveryCommandKeepsItsFrame := by
  unfold Obligations.EveryCommandKeepsItsFrame
  intro i s t hexec
  exact State.Ends.wrote (hexec ▸ exec_ends i s)

/-- Settles O44: each of the four commands checks ROOT before anything else. -/
theorem rootCommandsRefuseAnInvalidRoot : Obligations.RootCommandsRefuseAnInvalidRoot := by
  unfold Obligations.RootCommandsRefuseAnInvalidRoot
  intro s herr hroot i hi
  have hrefuse : ∀ k, s.unlessHalted (s.withRoot k) = .next (s.raise .eOperand (value s.root.toNat)) := by
    intro k
    rw [unlessHalted_running herr, State.withRoot, withNode_invalid hroot, value, BitVec.ofNat_toNat]
  simp only [List.mem_cons, List.not_mem_nil, or_false] at hi
  obtain rfl | rfl | rfl | rfl := hi <;> exact hrefuse _

/-! ## Steps -/

/-- What a step can do: wait, reset at power-on, refuse a malformed command, or run an instruction. -/
theorem step_cases {Q : Result → Prop} (s : State) (hwait : Q (.next s))
    (hreset : ∀ rest, Q (.next (State.resetBlock { s with port := rest })))
    (hrefuse : ∀ rest c, Q (.next (State.refuseCommand { s with port := rest } c)))
    (hexec : ∀ rest i, Q (exec i { s with port := rest })) : Q (step s) := by
  unfold step
  split
  · exact hwait
  · rename_i c rest _
    unfold State.perform
    split
    · exact hexec rest _
    · exact hrefuse rest c
    · exact hrefuse rest c
  · rename_i rest _; exact hreset rest

/-- A command that fails the encoding checks ends like any other, on the same state (30_encoding.md R136). -/
theorem refuseCommand_ends {s : State} {P : State → Prop} (h : P s) (c : Command) :
    s.Ends P (.next (s.refuseCommand c)) := by
  unfold State.refuseCommand
  split
  · rename_i he; exact .refused h he
  · exact .raised h

/-- However a command ends, the error bit stays equal to "the code is fatal": in the error halt a response is not stored, and
`raise` alone stores fatal codes and sets the bit. -/
theorem State.Ends.errIsFatal {s t : State} {w : List Store} (h : s.Ends (s.Wrote w) (.next t)) (hs : s.ErrIsFatal) :
    t.ErrIsFatal := by
  cases h with
  | refused => exact hs
  | responded hu he hfatal hstored => exact ⟨(he.elim hu.err id).trans hfatal.symm, hstored⟩
  | raised hu hfatal => exact ⟨hfatal.symm, fun hc => by rw [State.raise_code] at hc; rw [hc] at hfatal; cases hfatal⟩

/-- Settles O14: every command ends in a way that keeps it, and a reset stores OK with the bit clear. -/
theorem stepKeepsErrEqualToFatalCode : Obligations.StepKeepsErrEqualToFatalCode := by
  unfold Obligations.StepKeepsErrEqualToFatalCode
  intro s t hs
  refine step_cases (Q := fun r => r = .next t → t.ErrIsFatal) s ?hwait ?hreset ?hrefuse ?hexec
  case hwait => rintro ⟨rfl⟩; exact hs
  case hreset => rintro rest ⟨rfl⟩; exact ⟨rfl, Code.noConfusion⟩
  case hrefuse => rintro rest c ⟨rfl⟩; exact (refuseCommand_ends (.refl _ []) c).errIsFatal hs
  case hexec =>
    intro rest i hexec
    have h := exec_ends i { s with port := rest }
    rw [hexec] at h
    exact h.errIsFatal hs

/-- The forest is a matter of the arena alone. -/
theorem State.Forest.of_arena_eq {s t : State} (h : t.arena = s.arena) (hs : s.Forest) : t.Forest := by
  have hslot : t.slot? = s.slot? := funext (slot?_of_arena_eq h)
  have hnode : t.node = s.node := funext fun n => by simp only [State.node, hslot]
  have hvalid : t.valid = s.valid := funext fun n => by simp only [State.valid, hslot]
  have htree : ∀ fuel n, t.treeBelow fuel n = s.treeBelow fuel n := by
    intro fuel
    induction fuel with
    | zero => exact fun n => rfl
    | succ fuel ih => exact fun n => by simp only [State.treeBelow, hslot, ih]
  constructor
  · rw [hnode, hvalid]; exact hs.children
  · simp only [State.IsChild, hnode, hvalid]; exact hs.owned
  · simp only [State.IsChild, hnode, hvalid]; exact hs.oneOwner
  · simp only [State.treeAt, htree, hvalid]; exact hs.finite

/-- In a forest a command stops only on a channel: below a live node there is a tree to walk (10_state.md R40). -/
theorem State.Ends.of_forest {s : State} {P : State → Prop} {r : Result} (h : s.Ends P r) (hs : s.Forest) :
    (∃ t, r = .next t) ∨ r = .fault .sourceNeverAnswers ∨ r = .fault .sinkNeverAnswers := by
  cases h with
  | refused | responded | raised => exact .inl ⟨_, rfl⟩
  | sourceStops => exact .inr (.inl rfl)
  | sinkStops => exact .inr (.inr rfl)
  | noTree hv ht =>
    obtain ⟨t, ht'⟩ := hs.finite _ hv
    rw [ht] at ht'
    cases ht'

/-- Settles O23: a step that is no command has a next state, and a command ends as commands do in a forest. -/
theorem forestStepStopsOnlyOnAChannel : Obligations.ForestStepStopsOnlyOnAChannel := by
  unfold Obligations.ForestStepStopsOnlyOnAChannel
  intro s hs
  refine step_cases
    (Q := fun r => (∃ t, r = .next t) ∨ r = .fault .sourceNeverAnswers ∨ r = .fault .sinkNeverAnswers) s
    ?hwait ?hreset ?hrefuse ?hexec
  case hwait => exact .inl ⟨_, rfl⟩
  case hreset => exact fun rest => .inl ⟨_, rfl⟩
  case hrefuse => exact fun rest c => .inl ⟨_, rfl⟩
  case hexec =>
    exact fun rest i => (exec_ends i _).of_forest (State.Forest.of_arena_eq (s := s) rfl hs)

end Sys2Proof.Machine
end

section
/-! SUPPORT. Invariants of a step: what depends on some stores alone is kept by every command that may not write them (O18), so
only the others are looked at. The queue's order (spec/10_state.md R42) and the ranges of counts and cursors (R33, R37, R43 to
R47). -/

namespace Sys2Proof.Machine

/-- P is a matter of the parameters and of the stores sts. -/
def DependsOn (P : State → Prop) (sts : List Store) : Prop :=
  ∀ s t : State, t.params = s.params → (∀ st ∈ sts, s.sameStore t st) → P s → P t

/-- Answering keeps what depends on stores. -/
theorem State.Ends.keeps {s t : State} {P : State → Prop} {sts : List Store} (h : s.Ends P (.next t))
    (hP : DependsOn P sts) : P t := by
  cases h with
  | refused h => exact hP s _ rfl (fun st _ => sameStore_refl s st) h
  | @responded u _ _ h => exact hP u _ rfl (fun st _ => sameStore_refl u st) h
  | @raised u _ _ h => exact hP u _ rfl (fun st _ => sameStore_refl u st) h

/-- An invariant of a step: it holds after reset, and it is kept by the commands that may write what it depends on. -/
theorem step_keeps {P : State → Prop} {sts : List Store} (hP : DependsOn P sts) (hreset : ∀ s : State, P s.resetBlock)
    (hexec : ∀ i s, (∃ st ∈ sts, st ∈ mayWrite i) → P s → s.Ends P (exec i s)) {s t : State} (hs : P s)
    (h : step s = .next t) : P t := by
  have hport : ∀ rest, P { s with port := rest } := fun rest => hP s _ rfl (fun st _ => sameStore_refl s st) hs
  refine step_cases (Q := fun r => r = .next t → P t) s ?hwait ?hreset ?hrefuse ?hexec h
  case hwait => rintro ⟨rfl⟩; exact hs
  case hreset => rintro rest ⟨rfl⟩; exact hreset _
  case hrefuse => rintro rest c ⟨rfl⟩; exact (refuseCommand_ends (hport rest) c).keeps hP
  case hexec =>
    intro rest i hi
    by_cases hw : ∃ st ∈ sts, st ∈ mayWrite i
    · have hends := hexec i _ hw (hport rest)
      rw [hi] at hends
      exact hends.keeps hP
    · have hends := exec_ends i { s with port := rest }
      rw [hi] at hends
      obtain ⟨hparams, -, hstores⟩ := hends.wrote
      exact hP _ t hparams (fun st hst => hstores st fun hm => hw ⟨st, hst, hm⟩) (hport rest)

/-! ## The queue -/

theorem dependsOn_queueOrdered : DependsOn State.QueueOrdered [.queue] := by
  intro s t _ hstores hs
  obtain ⟨hslots, hhead, htail⟩ := hstores .queue (by simp)
  have hlist : t.pqList = s.pqList := by simp only [pqList_eq, State.pqSize, hslots, hhead, htail]
  rwa [State.QueueOrdered, hlist]

/-- An empty queue is ordered. -/
theorem queueOrdered_of_empty {s : State} (h : s.pqTail = s.pqHead) : s.QueueOrdered := by
  have hlist : s.pqList = [] := List.eq_nil_of_length_eq_zero (by simp [length_pqList, State.pqSize, h])
  rw [State.QueueOrdered, hlist]
  exact .nil

theorem pqSize_le (s : State) : s.pqSize ≤ pqN := Nat.lt_succ_iff.1 (s.pqTail - s.pqHead).isLt

theorem State.QueueOrdered.pqEnqueue {s t : State} {n : NodeIx} (hs : s.QueueOrdered) (h : s.pqEnqueue n = some t) :
    t.QueueOrdered := by
  obtain ⟨v, henq, hlist⟩ := pqEnqueue_spec n (Nat.lt_of_le_of_ne (pqSize_le s) (pqEnqueue_eq h).1) hs
  obtain rfl := Option.some.inj (henq.symm.trans h)
  rw [State.QueueOrdered, hlist]
  exact OrderedBy.insertKeyed hs _

theorem State.QueueOrdered.pqDequeue {s t : State} {n : NodeIx} (hs : s.QueueOrdered) (h : s.pqDequeue = some (n, t)) :
    t.QueueOrdered := by
  cases hq : s.pqList with
  | nil =>
    have hsize : s.pqSize = 0 := by rw [← length_pqList, hq]; rfl
    exact absurd (sub_eq_zero.1 (Fin.ext hsize)).symm (pqDequeue_eq h).1
  | cons e q =>
    obtain ⟨hdeq, hlist⟩ := pqDequeue_spec hq
    obtain ⟨-, rfl⟩ := Prod.mk.inj (Option.some.inj (hdeq.symm.trans h))
    rw [State.QueueOrdered, hq] at hs
    rw [State.QueueOrdered, hlist]
    exact (List.pairwise_cons.1 hs).2

/-- Settles O21: an enqueue inserts in order, a dequeue takes the head, and BUILD, PQ_CLEAR and reset leave the queue empty. -/
theorem stepKeepsTheQueueOrdered : Obligations.StepKeepsTheQueueOrdered := by
  unfold Obligations.StepKeepsTheQueueOrdered
  intro s t
  refine step_keeps dependsOn_queueOrdered (fun s => queueOrdered_of_empty rfl) fun i s hw hs => ?_
  cases i with
  | reset => exact .responded (queueOrdered_of_empty (s := s.resetBlock) rfl) (.inr rfl)
  | pqClear => exact ends_unlessHalted hs fun he => .responded (queueOrdered_of_empty rfl) (.inl he)
  | pqEnq n => exact execPqEnq_ends n hs fun _ ht => hs.pqEnqueue ht
  | pqDeq => exact execPqDeq_ends hs fun _ _ ht => hs.pqDequeue ht
  | build =>
    refine execBuild_ends hs fun u e hu => ?_
    obtain ⟨-, hq⟩ := State.Queued.dequeue hu.queued
    exact queueOrdered_of_empty (s := { u.dequeueNode.2 with root := _, hdrTsize := _ }) hq.tail_eq_head
  | _ => simp [mayWrite] at hw

/-- Settles O31: an ordered queue with room takes the node where the list model does. -/
theorem pqEnqInsertsAsTheListModel : Obligations.PqEnqInsertsAsTheListModel := by
  unfold Obligations.PqEnqInsertsAsTheListModel
  intro s n herr
  have hexec : exec (.pqEnq n) s = execPqEnq n s := rfl
  rw [hexec, execPqEnq, unlessHalted_running herr]
  refine ⟨fun hv => withNode_invalid hv _, fun hv hfull => ?_, fun hv hroom hs => ?_⟩
  · rw [withNode_valid hv, pqEnqueue_none.2 hfull, State.fail_eq_respond]
  · obtain ⟨v, henq, hlist⟩ := pqEnqueue_spec n hroom hs
    refine ⟨v, ?_, hlist⟩
    rw [withNode_valid hv, henq, ← pqSize_tail_succ v hroom]

/-! ## Codes, stack and ROOT -/

/-- BC and every entry of CT have at most 256 bits (R44, R45). -/
def State.CodesInRange (s : State) : Prop := s.bc.len ≤ 256 ∧ ∀ x, (s.ctAt x).code.len ≤ 256

/-- NS.TOP is at most NS.CAP, and NS.CAP at most NS_MAX (R43). -/
def State.StackInRange (s : State) : Prop := s.nsTop ≤ s.nsCap ∧ s.nsCap ≤ 767

/-- ROOT is NULL or names a slot (R37). -/
def State.RootInRange (s : State) : Prop := s.root = 0xFFFF ∨ s.root.toNat < 511

theorem dependsOn_codesInRange : DependsOn State.CodesInRange [.bitCode, .codeTable] := by
  intro s t _ hstores hs
  have hbc : t.bc = s.bc := hstores .bitCode (by simp)
  have hct : t.ct = s.ct := hstores .codeTable (by simp)
  rw [State.CodesInRange, hbc]
  simp only [State.ctAt, hct]
  exact hs

theorem dependsOn_stackInRange : DependsOn State.StackInRange [.stack] := by
  intro s t _ hstores hs
  obtain ⟨-, htop, hcap⟩ := hstores .stack (by simp)
  rwa [State.StackInRange, htop, hcap]

theorem dependsOn_rootInRange : DependsOn State.RootInRange [.root] := by
  intro s t _ hstores hs
  have hroot : t.root = s.root := hstores .root (by simp)
  rwa [State.RootInRange, hroot]

theorem State.CodesInRange.resetBlock (s : State) : s.resetBlock.CodesInRange :=
  ⟨Nat.zero_le _, fun x => by simp [State.ctAt, State.resetBlock, State.reset, BitCode.empty]⟩

theorem State.StackInRange.resetBlock (s : State) : s.resetBlock.StackInRange := ⟨Nat.le_refl _, Nat.zero_le _⟩

theorem State.RootInRange.resetBlock (s : State) : s.resetBlock.RootInRange := .inl rfl

theorem len_of_push {c c' : BitCode} {b : Bool} (h : c.push b = some c') (hc : c.len ≤ 256) : c'.len ≤ 256 := by
  unfold BitCode.push at h
  split at h
  · cases h
  · rename_i hne
    cases h
    exact Nat.lt_of_le_of_ne hc hne

theorem len_pushed {c : BitCode} (b : Bool) (hc : c.len ≤ 256) : (c.pushed b).len ≤ 256 := by
  unfold BitCode.pushed
  cases h : c.push b with
  | none => exact hc
  | some c' => exact len_of_push h hc

theorem len_of_pop {c c' : BitCode} {b : Bool} (h : c.pop = some (b, c')) : c'.len ≤ c.len := by
  unfold BitCode.pop at h
  split at h
  · cases h
  · cases h; exact Nat.sub_le _ _

theorem ctAt_invalidateCt_code (s : State) (x : Sym) : (s.invalidateCt.ctAt x).code = (s.ctAt x).code := by
  simp [State.invalidateCt, State.ctAt]

theorem State.CodesInRange.recordCodes (t : NodeTree) {s : State} {w : BitCode} (hs : s.CodesInRange) (hw : w.len ≤ 256) :
    (s.recordCodes w t).CodesInRange := by
  induction t generalizing s w with
  | leaf n x =>
    refine ⟨hs.1, fun y => ?_⟩
    rw [State.recordCodes, ctAt_setCt]
    split
    · exact hw
    · exact hs.2 y
  | node n l r ihl ihr => exact ihr (ihl hs (len_pushed false hw)) (len_pushed true hw)

theorem exec_codesInRange {i : Instr} {s : State} (hw : ∃ st ∈ [Store.bitCode, .codeTable], st ∈ mayWrite i)
    (hs : s.CodesInRange) : s.Ends State.CodesInRange (exec i s) := by
  obtain ⟨hbc, hct⟩ := id hs
  cases i with
  | reset => exact .responded (State.CodesInRange.resetBlock s) (.inr rfl)
  | bcClear => exact ends_unlessHalted hs fun he => .responded ⟨Nat.zero_le _, hct⟩ (.inl he)
  | bcPush b => exact execBcPush_ends b hs fun c hc => ⟨len_of_push hc hbc, hct⟩
  | bcPop => exact execBcPop_ends hs fun b c hc => ⟨(len_of_pop hc).trans hbc, hct⟩
  | ctLoadBc x => exact execCtLoadBc_ends x hs ⟨hct x, hct⟩
  | codeTable =>
    have hinv : s.invalidateCt.CodesInRange := ⟨hbc, fun x => by rw [ctAt_invalidateCt_code]; exact hct x⟩
    exact execCodeTable_ends hs fun t => hinv.recordCodes t (Nat.zero_le _)
  | _ => simp [mayWrite] at hw

theorem exec_stackInRange {i : Instr} {s : State} (hw : ∃ st ∈ [Store.stack], st ∈ mayWrite i) (hs : s.StackInRange) :
    s.Ends State.StackInRange (exec i s) := by
  obtain ⟨htop, hcap⟩ := id hs
  cases i with
  | reset => exact .responded (State.StackInRange.resetBlock s) (.inr rfl)
  | nsInit c => exact execNsInit_ends c hs fun hc => ⟨Nat.zero_le _, hc⟩
  | nsPush n =>
    refine execNsPush_ends n hs fun t ht => ?_
    obtain ⟨hne, rfl⟩ := nsPush_eq ht
    exact ⟨Nat.lt_of_le_of_ne htop hne, hcap⟩
  | nsPop =>
    refine execNsPop_ends hs fun n t ht => ?_
    obtain ⟨-, -, rfl⟩ := nsPop_eq ht
    exact ⟨(Nat.sub_le _ _).trans htop, hcap⟩
  | deserialize =>
    refine execDeserialize_ends hs (fun n bs u hu => ?_) fun n bs u v t hu _ hframe hmax => ?_
    · rw [(sourceRead_eq hu).2]; exact hs
    · rw [hframe]; exact ⟨Nat.zero_le _, hmax⟩
  | _ => simp [mayWrite] at hw

theorem State.RootInRange.freeTree {s : State} (hs : s.RootInRange) (t : NodeTree) : (s.freeTree t).RootInRange := by
  unfold State.freeTree
  induction t.postorder generalizing s with
  | nil => exact hs
  | cons n ns ih =>
    refine ih ?_
    rw [freeNode_eq, State.RootInRange]
    dsimp only
    split
    · exact .inl rfl
    · exact hs

theorem exec_rootInRange {i : Instr} {s : State} (hw : ∃ st ∈ [Store.root], st ∈ mayWrite i) (hs : s.RootInRange) :
    s.Ends State.RootInRange (exec i s) := by
  cases i with
  | reset => exact .responded (State.RootInRange.resetBlock s) (.inr rfl)
  | regWrite r v =>
    refine execRegWrite_ends r v hs (fun _ => hs) (fun _ => hs) (fun _ => hs) fun hv => ?_
    change v.setWidth 16 = 0xFFFF ∨ (v.setWidth 16).toNat < 511
    rw [← BitVec.toNat_inj, BitVec.toNat_setWidth]
    change v.toNat = 65535 ∨ v.toNat < 511 at hv
    change v.toNat % 65536 = 65535 ∨ v.toNat % 65536 < 511
    omega
  | release n => exact execRelease_ends n hs fun t _ _ _ => hs.freeTree t
  | build =>
    refine execBuild_ends hs fun u e hu => .inr ?_
    obtain ⟨hroot, -⟩ := State.Queued.dequeue hu.queued
    change u.dequeueNode.1.toNat < nodeCap
    rw [hroot]
    exact (hu.grown.holds e.2 (by simp)).lt e.2.root_mem_postorder
  | deserialize =>
    refine execDeserialize_ends hs (fun n bs u hu => ?_) fun n bs u v t hu hgrown _ _ => .inr ?_
    · rw [(sourceRead_eq hu).2]; exact hs
    · exact (hgrown.holds t (by simp)).lt t.root_mem_postorder
  | _ => simp [mayWrite] at hw

/-! ## The buffer and its cursors -/

/-- The cursors are in the buffer, whole bytes are loaded, and no bit beyond the buffer is set (R46, R47). -/
structure State.StreamInRange (s : State) : Prop where
  wrCur  : s.wrCur < s.bufBits
  rdCur  : s.rdCur ≤ s.rdEnd
  rdEnd  : s.rdEnd ≤ s.bufBits
  whole  : s.rdEnd % 8 = 0
  memory : Memory.wf s

theorem State.bufBits_pos (s : State) : 0 < s.bufBits := by
  have := Params.blockBytes_pos s.params
  rw [State.bufBits_eq]; omega

theorem dependsOn_streamInRange : DependsOn State.StreamInRange [.buffer, .cursors] := by
  intro s t hparams hstores hs
  have hbuf : t.buf = s.buf := hstores .buffer (by simp)
  obtain ⟨hwr, hrd, hend⟩ := hstores .cursors (by simp)
  have hbits : t.bufBits = s.bufBits := by rw [State.bufBits, hparams]; rfl
  constructor
  · rw [hwr, hbits]; exact hs.wrCur
  · rw [hrd, hend]; exact hs.rdCur
  · rw [hend, hbits]; exact hs.rdEnd
  · rw [hend]; exact hs.whole
  · rw [Memory.wf, hbuf, hbits]; exact hs.memory

theorem State.StreamInRange.resetBlock (s : State) : s.resetBlock.StreamInRange :=
  ⟨s.bufBits_pos, Nat.le_refl _, Nat.zero_le _, rfl, resetBlock_wf s⟩

theorem keptBySink_streamInRange : KeptBySink State.StreamInRange := by
  intro u t bs w hu h
  rw [sinkWrite_eq h]
  exact ⟨hu.wrCur, hu.rdCur, hu.rdEnd, hu.whole, hu.memory⟩

/-- A bit is read where RD_CUR stands, or first after a refill of one byte or more (46_bitstream.md R311). -/
theorem readBit_cases {s t : State} {b : Bool} (h : s.readBit = .bit b t) :
    (s.rdCur ≠ s.rdEnd ∧ t = { s with rdCur := s.rdCur + 1 }) ∨
    ∃ bs u, s.sourceRead s.params.blockBytes = some (bs, u) ∧ 0 < bs.length ∧ t = { u.load bs with rdCur := 1 } := by
  unfold State.readBit at h
  split at h
  · split at h
    · cases h
    · rename_i c bs u hread
      cases h
      exact .inr ⟨_, u, hread, Nat.succ_pos _, rfl⟩
    · cases h
  · rename_i hne
    cases h
    exact .inl ⟨hne, rfl⟩

theorem keptByReads_streamInRange : KeptByReads State.StreamInRange where
  bit s t b hs h := by
    have hpos := hs.rdCur
    obtain ⟨hne, rfl⟩ | ⟨bs, u, hread, hlen, rfl⟩ := readBit_cases h
    · exact ⟨hs.wrCur, Nat.lt_of_le_of_ne hs.rdCur hne, hs.rdEnd, hs.whole, hs.memory⟩
    · obtain ⟨hmax, hu⟩ := sourceRead_eq hread
      have hparams : u.params = s.params := by rw [hu]
      have hmem : Memory.wf u := by rw [hu]; exact hs.memory
      have hwr : u.wrCur < u.bufBits := by rw [hu]; exact hs.wrCur
      rw [← hparams] at hmax
      refine ⟨hwr, ?_, ?_, ?_, load_wf u bs hmax hmem⟩
      · change 1 ≤ 8 * bs.length; omega
      · change 8 * bs.length ≤ 8 * u.params.blockBytes; omega
      · change 8 * bs.length % 8 = 0; omega
  exhausted s t hs h := by
    rw [(readBit_exhausted h).2]
    exact ⟨hs.wrCur, hs.rdCur, hs.rdEnd, hs.whole, hs.memory⟩

theorem keptByWrites_streamInRange : KeptByWrites State.StreamInRange where
  done s t b hs h := by
    obtain ⟨hwr, ht⟩ := writeBit_done h
    have hmem := writeBit_wf hs.wrCur hs.memory h
    have hpos := s.bufBits_pos
    have hcur := hs.wrCur
    have hwr' : t.wrCur < s.bufBits := by rw [hwr]; split <;> omega
    rw [ht] at hmem ⊢
    exact ⟨hwr', hs.rdCur, hs.rdEnd, hs.whole, hmem⟩
  raised s t b hs h := by
    obtain ⟨w, plan, sink, -, rfl⟩ := writeBit_raised h
    have hmem := setBufBit_wf s s.wrCur b hs.wrCur hs.memory
    exact ⟨{ s with buf := putBit s.buf s.wrCur b, wrCur := 0, sinkPlan := plan, sink := sink }, value w,
      ⟨s.bufBits_pos, hs.rdCur, hs.rdEnd, hs.whole, hmem⟩, rfl⟩

theorem State.StreamInRange.setBufBit {s : State} (hs : s.StreamInRange) {i : Nat} (hi : i < s.bufBits) (b : Bool) :
    (s.setBufBit i b).StreamInRange :=
  ⟨hs.wrCur, hs.rdCur, hs.rdEnd, hs.whole, setBufBit_wf s i b hi hs.memory⟩

theorem execFlush_streamInRange {s : State} (hs : s.StreamInRange) : s.Ends State.StreamInRange (execFlush s) := by
  refine execFlush_ends hs fun n w u hn hsent => ?_
  have hcur := hs.wrCur
  have hbits := s.bufBits_eq
  obtain ⟨hmem, hpad⟩ := pad_spec (8 * n - s.wrCur) s s.wrCur (by omega) hs.memory
  rw [hpad] at hmem hsent
  rw [sinkWrite_eq hsent]
  exact ⟨s.bufBits_pos, hs.rdCur, hs.rdEnd, hs.whole, hmem⟩

theorem exec_streamInRange {i : Instr} {s : State} (hw : ∃ st ∈ [Store.buffer, .cursors], st ∈ mayWrite i)
    (hs : s.StreamInRange) : s.Ends State.StreamInRange (exec i s) := by
  have hbit : ∀ (k : BitVec 16) b, s.Ends State.StreamInRange
      (s.unlessHalted (.next (s.withBufIndex k ((s.setBufBit k.toNat b).respond .ok 0)))) := fun k b =>
    ends_unlessHalted hs fun he => ends_withBufIndex hs fun hk => .responded (hs.setBufBit hk b) (.inl he)
  cases i with
  | reset => exact .responded (State.StreamInRange.resetBlock s) (.inr rfl)
  | bsReset =>
    exact ends_unlessHalted hs fun he =>
      .responded ⟨s.bufBits_pos, Nat.le_refl _, Nat.zero_le _, rfl, hs.memory⟩ (.inl he)
  | setBit k => exact hbit k true
  | clrBit k => exact hbit k false
  | readBit => exact execReadBit_ends hs keptByReads_streamInRange
  | decSym => exact execDecSym_ends hs keptByReads_streamInRange
  | decodeAll => exact execDecodeAll_ends hs keptByReads_streamInRange keptBySink_streamInRange
  | writeCode x => exact execWriteCode_ends x hs keptByWrites_streamInRange
  | writeBc => exact ends_unlessHalted hs fun he => ends_writeThenRespond he hs keptByWrites_streamInRange _
  | flush => exact execFlush_streamInRange hs
  | _ => simp [mayWrite] at hw

/-- Settles O20: each group of bounds depends on its own stores, and each command that writes them keeps it. -/
theorem stepKeepsBounds : Obligations.StepKeepsBounds := by
  unfold Obligations.StepKeepsBounds
  intro s t hs h
  obtain ⟨hbc, hct⟩ := step_keeps dependsOn_codesInRange State.CodesInRange.resetBlock
    (fun _ _ => exec_codesInRange) ⟨hs.bcLen, hs.ctLen⟩ h
  obtain ⟨htop, hcap⟩ := step_keeps dependsOn_stackInRange State.StackInRange.resetBlock
    (fun _ _ => exec_stackInRange) ⟨hs.nsTop, hs.nsCap⟩ h
  have hroot := step_keeps dependsOn_rootInRange State.RootInRange.resetBlock (fun _ _ => exec_rootInRange) hs.root h
  obtain ⟨hwr, hrd, hend, hwhole, hmem⟩ := step_keeps dependsOn_streamInRange State.StreamInRange.resetBlock
    (fun _ _ => exec_streamInRange) ⟨hs.wrCur, hs.rdCur, hs.rdEnd, hs.whole, hs.memory⟩ h
  exact ⟨hbc, hct, htop, hcap, hroot, hwr, hrd, hend, hwhole, hmem⟩

end Sys2Proof.Machine
end

section
/-! SUPPORT. The forest of live nodes (spec/10_state.md R40): `treeAt` finds exactly the trees the links spell, and growing, joining
and releasing trees keeps the forest. -/

namespace Sys2Proof.Machine

/-! ## The trees the links spell -/

/-- The slots' links and the leaves' symbols are those of the tree. -/
def State.Spells (s : State) : NodeTree → Prop
  | .leaf n x => n.toNat < nodeCap ∧ (s.node n).isLeaf = true ∧ (s.node n).sym = x
  | .node n l r =>
    n.toNat < nodeCap ∧ (s.node n).isLeaf = false ∧ (s.node n).left = l.root ∧ (s.node n).right = r.root ∧
    s.Spells l ∧ s.Spells r

/-- The two slots of an index have the same links and symbol; VALID and HASPARENT may differ. -/
def State.SameLinks (s u : State) (n : NodeIx) : Prop :=
  (u.node n).sym = (s.node n).sym ∧ (u.node n).left = (s.node n).left ∧ (u.node n).right = (s.node n).right

theorem treeBelow_succ (s : State) (fuel : Nat) {n : NodeIx} (hn : n.toNat < nodeCap) :
    s.treeBelow (fuel + 1) n =
      if (s.node n).isLeaf then some (.leaf n (s.node n).sym)
      else (s.treeBelow fuel (s.node n).left).bind fun l => (s.treeBelow fuel (s.node n).right).map (.node n l) := by
  rw [State.treeBelow, slot?_of_lt hn]
  dsimp only
  split
  · rfl
  · cases s.treeBelow fuel (s.node n).left <;> cases s.treeBelow fuel (s.node n).right <;> rfl

section
variable {s u : State} {t t' : NodeTree}

theorem State.Spells.lt (h : s.Spells t) : t.root.toNat < nodeCap := by cases t <;> exact h.1

theorem State.SameLinks.isLeaf {n : NodeIx} (h : s.SameLinks u n) : (u.node n).isLeaf = (s.node n).isLeaf := by
  obtain ⟨-, hl, hr⟩ := h
  rw [Node.isLeaf, hl, hr]; rfl

theorem State.IsChild.of_sameLinks {c p : NodeIx} (h : u.IsChild c p) (hp : s.SameLinks u p)
    (hv : u.valid p = true → s.valid p = true) : s.IsChild c p := by
  obtain ⟨hvp, hinner, hc⟩ := h
  rw [hp.isLeaf] at hinner
  rw [hp.2.1, hp.2.2] at hc
  exact ⟨hv hvp, hinner, hc⟩

/-- Spelling a tree is a matter of its own nodes' links. -/
theorem State.Spells.congr (hs : ∀ n ∈ t.postorder, s.SameLinks u n) (h : s.Spells t) : u.Spells t := by
  induction t with
  | leaf n x =>
    have hn := hs n (by simp [NodeTree.postorder])
    exact ⟨h.1, hn.isLeaf.trans h.2.1, hn.1.trans h.2.2⟩
  | node n l r ihl ihr =>
    simp only [NodeTree.postorder, List.mem_append, List.mem_singleton] at hs
    obtain ⟨hlt, hinner, hleft, hright, hl, hr⟩ := h
    have hn := hs n (.inr rfl)
    exact ⟨hlt, hn.isLeaf.trans hinner, hn.2.1.trans hleft, hn.2.2.trans hright,
      ihl (fun m hm => hs m (.inl (.inl hm))) hl, ihr (fun m hm => hs m (.inl (.inr hm))) hr⟩

/-- The links below a node spell one tree at most. -/
theorem State.Spells.unique (h : s.Spells t) (h' : s.Spells t') (hroot : t'.root = t.root) : t' = t := by
  induction t generalizing t' with
  | leaf n x =>
    obtain ⟨-, hleaf, hsym⟩ := h
    cases t' with
    | leaf n' x' =>
      obtain rfl : n' = n := hroot
      rw [← hsym, ← h'.2.2]
    | node n' l' r' =>
      obtain rfl : n' = n := hroot
      exact absurd (hleaf.symm.trans h'.2.1) (by decide)
  | node n l r ihl ihr =>
    obtain ⟨-, hinner, hleft, hright, hl, hr⟩ := h
    cases t' with
    | leaf n' x' =>
      obtain rfl : n' = n := hroot
      exact absurd (hinner.symm.trans h'.2.1) (by decide)
    | node n' l' r' =>
      obtain rfl : n' = n := hroot
      obtain ⟨-, -, hleft', hright', hl', hr'⟩ := h'
      rw [ihl hl hl' (hleft'.symm.trans hleft), ihr hr hr' (hright'.symm.trans hright)]

/-- A spelled tree has subtrees of every height up to its own. -/
theorem State.Spells.exists_height {k : Nat} (h : s.Spells t) (hk : k ≤ t.height) : ∃ t', s.Spells t' ∧ t'.height = k := by
  induction t with
  | leaf n x => exact ⟨_, h, (Nat.le_zero.1 hk).symm⟩
  | node n l r ihl ihr =>
    obtain ⟨-, -, -, -, hl, hr⟩ := id h
    rw [NodeTree.height] at hk
    by_cases htop : k = max l.height r.height + 1
    · exact ⟨_, h, htop.symm⟩
    · by_cases hkl : k ≤ l.height
      · exact ihl hl hkl
      · exact ihr hr (by omega)

/-- Subtrees of different heights have different roots, so a spelled tree is lower than the arena has slots. -/
theorem State.Spells.height_lt (h : s.Spells t) : t.height < nodeCap := by
  have hsub : ∀ k : Fin (t.height + 1), ∃ t', s.Spells t' ∧ t'.height = k.val := fun k =>
    h.exists_height (Nat.lt_succ_iff.1 k.isLt)
  choose sub hspells hheight using hsub
  let slot : Fin (t.height + 1) → Fin nodeCap := fun k => ⟨(sub k).root.toNat, (hspells k).lt⟩
  have hinj : Function.Injective slot := by
    intro j k hjk
    have hroot : (sub k).root = (sub j).root := BitVec.eq_of_toNat_eq (Fin.mk.inj hjk).symm
    have hsame : sub k = sub j := (hspells j).unique (hspells k) hroot
    exact Fin.ext (by rw [← hheight j, ← hheight k, hsame])
  simpa using Fintype.card_le_of_injective slot hinj

theorem State.Spells.treeBelow {fuel : Nat} (h : s.Spells t) (hfuel : t.height < fuel) :
    s.treeBelow fuel t.root = some t := by
  induction t generalizing fuel with
  | leaf n x =>
    obtain ⟨fuel, rfl⟩ := Nat.exists_eq_succ_of_ne_zero (Nat.ne_zero_of_lt hfuel)
    obtain ⟨hlt, hleaf, hsym⟩ := h
    rw [NodeTree.root_leaf, treeBelow_succ s fuel hlt, if_pos hleaf, hsym]
  | node n l r ihl ihr =>
    obtain ⟨fuel, rfl⟩ := Nat.exists_eq_succ_of_ne_zero (Nat.ne_zero_of_lt hfuel)
    obtain ⟨hlt, hinner, hleft, hright, hl, hr⟩ := h
    rw [NodeTree.height] at hfuel
    rw [NodeTree.root_node, treeBelow_succ s fuel hlt, hinner, hleft, hright, ihl hl (by omega), ihr hr (by omega)]
    rfl

theorem spells_of_treeBelow {fuel : Nat} {n : NodeIx} (h : s.treeBelow fuel n = some t) : t.root = n ∧ s.Spells t := by
  induction fuel generalizing n t with
  | zero => cases h
  | succ fuel ih =>
    by_cases hn : n.toNat < nodeCap
    · rw [treeBelow_succ s fuel hn] at h
      split at h
      · rename_i hleaf
        cases h
        exact ⟨rfl, hn, hleaf, rfl⟩
      · rename_i hinner
        obtain ⟨l, hl, h⟩ := Option.bind_eq_some_iff.1 h
        obtain ⟨r, hr, rfl⟩ := Option.map_eq_some_iff.1 h
        obtain ⟨hleft, hl⟩ := ih hl
        obtain ⟨hright, hr⟩ := ih hr
        exact ⟨rfl, hn, Bool.not_eq_true _ ▸ hinner, hleft.symm, hright.symm, hl, hr⟩
    · have hnone : s.slot? n = none := by simp [State.slot?, hn]
      rw [State.treeBelow, hnone] at h
      cases h

/-- `treeAt` finds the tree the links spell, whatever its height. -/
theorem treeAt_eq_some_iff {n : NodeIx} : s.treeAt n = some t ↔ t.root = n ∧ s.Spells t := by
  constructor
  · exact spells_of_treeBelow
  · rintro ⟨rfl, h⟩
    exact h.treeBelow h.height_lt

theorem State.Holds.spells {w : Sym → Value} {hp : Bool} (h : s.Holds w hp t) : s.Spells t := by
  induction t generalizing hp with
  | leaf n x =>
    have hn : s.slot? n = some _ := h
    rw [State.Spells, node_of_slot? hn]
    exact ⟨lt_of_slot? hn, by simp [Node.isLeaf], rfl⟩
  | node n l r ihl ihr =>
    obtain ⟨hn, hl, hr⟩ := h
    have hne := ne_null_of_lt (hl.lt l.root_mem_postorder)
    rw [State.Spells, node_of_slot? hn]
    exact ⟨lt_of_slot? hn, by simp [Node.isLeaf, hne], rfl, rfl, ihl hl, ihr hr⟩

/-! ## Trees of a forest -/

/-- In a forest every node of a live node's tree is live. -/
theorem State.Forest.valid_of_mem (hs : s.Forest) (h : s.Spells t) (hv : s.valid t.root = true) {n : NodeIx}
    (hn : n ∈ t.postorder) : s.valid n = true := by
  induction t with
  | leaf m x =>
    obtain rfl : n = m := by simpa [NodeTree.postorder] using hn
    exact hv
  | node m l r ihl ihr =>
    obtain ⟨-, hinner, hleft, hright, hl, hr⟩ := h
    obtain ⟨hvl, hvr, -⟩ := hs.children m hv hinner
    rw [hleft] at hvl
    rw [hright] at hvr
    simp only [NodeTree.postorder, List.mem_append, List.mem_singleton] at hn
    obtain (hn | hn) | rfl := hn
    · exact ihl hl hvl hn
    · exact ihr hr hvr hn
    · exact hv

/-- In a forest every node of a live node's tree but its root is the child of a node of the tree. -/
theorem State.Forest.exists_parent (hs : s.Forest) (h : s.Spells t) (hv : s.valid t.root = true) {c : NodeIx}
    (hc : c ∈ t.postorder) (hroot : c ≠ t.root) : ∃ p ∈ t.postorder, s.IsChild c p := by
  induction t with
  | leaf m x => exact absurd (by simpa [NodeTree.postorder] using hc) hroot
  | node m l r ihl ihr =>
    obtain ⟨-, hinner, hleft, hright, hl, hr⟩ := h
    obtain ⟨hvl, hvr, -⟩ := hs.children m hv hinner
    rw [hleft] at hvl
    rw [hright] at hvr
    have hm : m ∈ (NodeTree.node m l r).postorder := NodeTree.root_mem_postorder _
    simp only [NodeTree.postorder, List.mem_append, List.mem_singleton] at hc ⊢
    obtain (hc | hc) | rfl := hc
    · by_cases hcl : c = l.root
      · exact ⟨m, .inr rfl, hv, hinner, .inl (hleft.trans hcl.symm)⟩
      · obtain ⟨p, hp, hchild⟩ := ihl hl hvl hc hcl
        exact ⟨p, .inl (.inl hp), hchild⟩
    · by_cases hcr : c = r.root
      · exact ⟨m, .inr rfl, hv, hinner, .inr (hright.trans hcr.symm)⟩
      · obtain ⟨p, hp, hchild⟩ := ihr hr hvr hc hcr
        exact ⟨p, .inl (.inr hp), hchild⟩
    · exact absurd rfl hroot

/-- A child of a live node is live. -/
theorem State.Forest.valid_child (hs : s.Forest) {c p : NodeIx} (h : s.IsChild c p) : s.valid c = true := by
  obtain ⟨hv, hinner, hc⟩ := h
  obtain ⟨hl, hr, -⟩ := hs.children p hv hinner
  obtain rfl | rfl := hc
  · exact hl
  · exact hr

/-! ## Adding nodes -/

/-- From s to u the nodes of N are added to the forest: they were free, the other nodes are as live as they were with the same
links and keep their mark, and the new nodes are linked as a forest asks, to new nodes or to nodes without a parent. -/
structure State.Adds (s u : State) (N : NodeIx → Prop) : Prop where
  fresh    : ∀ n, N n → s.valid n = false
  live     : ∀ n, ¬ N n → u.valid n = s.valid n
  links    : ∀ n, ¬ N n → s.SameLinks u n
  marks    : ∀ n, ¬ N n → (s.node n).hasParent = true → (u.node n).hasParent = true
  children : ∀ p, N p → (u.node p).isLeaf = false →
    u.valid (u.node p).left = true ∧ u.valid (u.node p).right = true ∧ (u.node p).left ≠ (u.node p).right
  owned    : ∀ c p, N p → u.IsChild c p → (u.node c).hasParent = true
  orphan   : ∀ c p, N p → u.IsChild c p → N c ∨ (s.node c).hasParent = false
  oneOwner : ∀ c p q, N p → N q → u.IsChild c p → u.IsChild c q → p = q
  spelled  : ∀ n, N n → ∃ t, t.root = n ∧ u.Spells t

theorem State.Adds.forest {N : NodeIx → Prop} (h : s.Adds u N) (hs : s.Forest) : u.Forest := by
  have hold : ∀ n, s.valid n = true → ¬ N n := fun n hv hn => by simp [h.fresh n hn] at hv
  have hchild : ∀ c p, ¬ N p → u.IsChild c p → s.IsChild c p := fun c p hp hc =>
    hc.of_sameLinks (h.links p hp) fun hv => (h.live p hp).symm.trans hv
  have hkeep : ∀ c, s.valid c = true → u.valid c = true := fun c hc => (h.live c (hold c hc)).trans hc
  constructor
  case children =>
    intro p hv hinner
    by_cases hp : N p
    · exact h.children p hp hinner
    · obtain ⟨-, hleft, hright⟩ := h.links p hp
      rw [h.live p hp] at hv
      rw [(h.links p hp).isLeaf] at hinner
      obtain ⟨hl, hr, hne⟩ := hs.children p hv hinner
      rw [hleft, hright]
      exact ⟨hkeep _ hl, hkeep _ hr, hne⟩
  case owned =>
    intro c p hc
    by_cases hp : N p
    · exact h.owned c p hp hc
    · have hc := hchild c p hp hc
      exact h.marks c (hold c (hs.valid_child hc)) (hs.owned c p hc)
  case oneOwner =>
    have hmixed : ∀ c p q, N p → ¬ N q → u.IsChild c p → ¬ u.IsChild c q := by
      intro c p q hp hq hcp hcq
      have hcq := hchild c q hq hcq
      have hmark := (h.orphan c p hp hcp).resolve_left (hold c (hs.valid_child hcq))
      exact absurd ((hs.owned c q hcq).symm.trans hmark) (by decide)
    intro c p q hcp hcq
    by_cases hp : N p <;> by_cases hq : N q
    · exact h.oneOwner c p q hp hq hcp hcq
    · exact absurd hcq (hmixed c p q hp hq hcp)
    · exact absurd hcp (hmixed c q p hq hp hcq)
    · exact hs.oneOwner c p q (hchild c p hp hcp) (hchild c q hq hcq)
  case finite =>
    intro n hv
    by_cases hn : N n
    · obtain ⟨t, ht⟩ := h.spelled n hn
      exact ⟨t, treeAt_eq_some_iff.2 ht⟩
    · rw [h.live n hn] at hv
      obtain ⟨t, ht⟩ := hs.finite n hv
      obtain ⟨rfl, hspells⟩ := treeAt_eq_some_iff.1 ht
      refine ⟨t, treeAt_eq_some_iff.2 ⟨rfl, hspells.congr fun m hm => h.links m ?_⟩⟩
      exact hold m (hs.valid_of_mem hspells hv hm)

end
end Sys2Proof.Machine
end

section
/-! SUPPORT. What joins, releases and grows trees keeps the forest (spec/44_tree.md R242, R246; spec/10_state.md R40). -/

namespace Sys2Proof.Machine

/-! ## NODE_JOIN -/

/-- Adopting a node sets its mark and changes nothing else of any slot. -/
theorem slot?_adopt_map (s : State) (n m : NodeIx) :
    (s.adopt n).slot? m = (s.slot? m).map fun nd => { nd with hasParent := nd.hasParent || decide (m = n) } := by
  rw [slot?_adopt]
  by_cases hm : m = n
  · subst hm; simp
  · simp [hm]

/-- A join marks the two children and changes nothing else of the nodes that were there (R242). -/
theorem slot?_join_old {s : State} {l r m : NodeIx} (hfree : 0 < s.freeSlots) (hm : m ≠ s.alloc) :
    (s.join l r).2.slot? m =
      (s.slot? m).map fun nd => { nd with hasParent := nd.hasParent || decide (m = l ∨ m = r) } := by
  rw [join_eq_adopt, slot?_adopt_map, slot?_adopt_map, slot?_setNode_alloc hfree, if_neg hm]
  cases s.slot? m <;> simp [Bool.or_assoc]

section
variable {s : State} {l r : NodeIx}

theorem ne_alloc_of_valid (hfree : 0 < s.freeSlots) {n : NodeIx} (h : s.valid n = true) : n ≠ s.alloc := fun e => by
  rw [e, (alloc_lowestFree hfree).2.1] at h
  cases h

theorem State.Joinable.valid_old (h : s.Joinable l r) {m : NodeIx} (hm : m ≠ s.alloc) :
    (s.join l r).2.valid m = s.valid m := by
  rw [State.valid, State.valid, slot?_join_old h.free hm]
  cases s.slot? m <;> rfl

theorem State.Joinable.node_old (h : s.Joinable l r) {m : NodeIx} (hm : s.valid m = true) :
    (s.join l r).2.node m = { s.node m with hasParent := (s.node m).hasParent || decide (m = l ∨ m = r) } := by
  obtain ⟨nd, hnd, -⟩ := (valid_iff s m).1 hm
  have hslot := slot?_join_old (l := l) (r := r) h.free (ne_alloc_of_valid h.free hm)
  rw [hnd] at hslot
  rw [node_of_slot? hnd, node_of_slot? hslot]

/-- NODE_JOIN adds one node, above two nodes without a parent. -/
theorem State.Joinable.adds (h : s.Joinable l r) (hs : s.Forest) : s.Adds (s.join l r).2 (· = s.alloc) := by
  obtain ⟨⟨hl, hlp⟩, ⟨hr, hrp⟩, hne, hfree⟩ := id h
  have hnel := ne_alloc_of_valid hfree hl
  have hner := ne_alloc_of_valid hfree hr
  have hslot := slot?_join_new hfree hnel hner
  have hnode := node_of_slot? hslot
  have hold := fun n (hn : n ≠ s.alloc) => slot?_join_old (l := l) (r := r) hfree hn
  have hchild : ∀ c, (s.join l r).2.IsChild c s.alloc → c = l ∨ c = r := by
    rintro c ⟨-, -, hc⟩
    rw [hnode] at hc
    exact hc.imp Eq.symm Eq.symm
  have hlinks : ∀ n, n ≠ s.alloc → s.SameLinks (s.join l r).2 n := fun n hn => by
    rw [State.SameLinks, State.node, State.node, hold n hn]
    cases s.slot? n <;> exact ⟨rfl, rfl, rfl⟩
  constructor
  case fresh => rintro n rfl; exact (alloc_lowestFree hfree).2.1
  case live => exact fun n hn => h.valid_old hn
  case links => exact hlinks
  case marks =>
    intro n hn hp
    rw [State.node] at hp ⊢
    rw [hold n hn]
    cases hnd : s.slot? n with
    | none => rw [hnd] at hp; cases hp
    | some nd =>
      rw [hnd, Option.getD_some] at hp
      rw [Option.map_some, Option.getD_some, hp, Bool.true_or]
  case children =>
    rintro p rfl -
    rw [hnode, h.valid_old hnel, h.valid_old hner]
    exact ⟨hl, hr, hne⟩
  case owned =>
    rintro c p rfl hc
    have hc := hchild c hc
    have hv : s.valid c = true := by obtain rfl | rfl := hc <;> assumption
    rw [h.node_old hv, decide_eq_true hc, Bool.or_true]
  case orphan =>
    rintro c p rfl hc
    obtain rfl | rfl := hchild c hc
    · exact .inr hlp
    · exact .inr hrp
  case oneOwner => rintro c p q rfl rfl - -; rfl
  case spelled =>
    rintro n rfl
    obtain ⟨tl, htl⟩ := hs.finite l hl
    obtain ⟨tr, htr⟩ := hs.finite r hr
    obtain ⟨rfl, hsl⟩ := treeAt_eq_some_iff.1 htl
    obtain ⟨rfl, hsr⟩ := treeAt_eq_some_iff.1 htr
    have hnull := ne_null_of_lt hsl.lt
    have hkeep : ∀ t, s.Spells t → s.valid t.root = true → (s.join tl.root tr.root).2.Spells t := fun t ht hv =>
      ht.congr fun m hm => hlinks m (ne_alloc_of_valid hfree (hs.valid_of_mem ht hv hm))
    refine ⟨.node s.alloc tl tr, rfl, lt_of_slot? hslot, ?_, ?_, ?_, hkeep tl hsl hl, hkeep tr hsr hr⟩ <;> rw [hnode]
    simp [Node.isLeaf, hnull]

end

/-! ## RELEASE -/

theorem slot?_freeNode (s : State) (n m : NodeIx) :
    (s.freeNode n).slot? m = if m = n then (s.slot? n).map ({ · with valid := false }) else s.slot? m := by
  have hset : (s.freeNode n).slot? m = (s.setNode n { s.node n with valid := false }).slot? m := by
    unfold State.freeNode
    dsimp only
    split <;> rfl
  rw [hset, slot?_setNode]
  by_cases hn : n.toNat < nodeCap
  · simp [hn, slot?_of_lt hn]
  · have hnone : s.slot? n = none := by simp [State.slot?, hn]
    by_cases hm : m = n
    · simp [hm, hn, hnone]
    · simp [hm]

/-- Releasing a tree frees its nodes and changes nothing else of any slot (R246). -/
theorem slot?_freeTree (s : State) (t : NodeTree) (m : NodeIx) :
    (s.freeTree t).slot? m = (s.slot? m).map fun nd => { nd with valid := nd.valid && decide (m ∉ t.postorder) } := by
  unfold State.freeTree
  induction t.postorder generalizing s with
  | nil => simp
  | cons n ns ih =>
    rw [List.foldl_cons, ih, slot?_freeNode]
    by_cases hm : m = n
    · subst hm; cases s.slot? m <;> simp
    · simp [hm]

section
variable {s : State} {t : NodeTree}

/-- In a forest no child of a node outside a whole tree is a node of the tree. -/
theorem State.Forest.child_not_mem (hs : s.Forest) (h : s.Spells t) (hv : s.valid t.root = true)
    (hroot : (s.node t.root).hasParent = false) {c p : NodeIx} (hc : s.IsChild c p) (hp : p ∉ t.postorder) :
    c ∉ t.postorder := by
  intro hm
  by_cases hcr : c = t.root
  · exact absurd ((hs.owned c p hc).symm.trans (hcr ▸ hroot)) (by decide)
  · obtain ⟨q, hq, hcq⟩ := hs.exists_parent h hv hm hcr
    exact hp (hs.oneOwner c p q hc hcq ▸ hq)

theorem State.Forest.freeTree (hs : s.Forest) (h : s.Spells t) (hv : s.valid t.root = true)
    (hroot : (s.node t.root).hasParent = false) : (s.freeTree t).Forest := by
  have hlinks : ∀ n, s.SameLinks (s.freeTree t) n ∧ ((s.freeTree t).node n).hasParent = (s.node n).hasParent := by
    intro n
    rw [State.SameLinks, State.node, State.node, slot?_freeTree]
    cases s.slot? n <;> exact ⟨⟨rfl, rfl, rfl⟩, rfl⟩
  have hvalid : ∀ n, (s.freeTree t).valid n = true ↔ s.valid n = true ∧ n ∉ t.postorder := by
    intro n
    rw [State.valid, State.valid, slot?_freeTree]
    cases s.slot? n <;> simp
  have hchild : ∀ c p, (s.freeTree t).IsChild c p → s.IsChild c p := fun c p hc =>
    hc.of_sameLinks (hlinks p).1 fun hvp => ((hvalid p).1 hvp).1
  constructor
  case children =>
    intro p hvp hinner
    obtain ⟨hvp, hp⟩ := (hvalid p).1 hvp
    obtain ⟨⟨-, hleft, hright⟩, -⟩ := hlinks p
    rw [(hlinks p).1.isLeaf] at hinner
    obtain ⟨hl, hr, hne⟩ := hs.children p hvp hinner
    rw [hleft, hright, hvalid, hvalid]
    exact ⟨⟨hl, hs.child_not_mem h hv hroot ⟨hvp, hinner, .inl rfl⟩ hp⟩,
      ⟨hr, hs.child_not_mem h hv hroot ⟨hvp, hinner, .inr rfl⟩ hp⟩, hne⟩
  case owned => exact fun c p hc => (hlinks c).2.trans (hs.owned c p (hchild c p hc))
  case oneOwner => exact fun c p q hp hq => hs.oneOwner c p q (hchild c p hp) (hchild c q hq)
  case finite =>
    intro n hn
    obtain ⟨t', ht'⟩ := hs.finite n ((hvalid n).1 hn).1
    obtain ⟨hr, hspells⟩ := treeAt_eq_some_iff.1 ht'
    exact ⟨t', treeAt_eq_some_iff.2 ⟨hr, hspells.congr fun m _ => (hlinks m).1⟩⟩

end

/-! ## Growing trees -/

/-- The pairs of a child and its parent in a tree. -/
def NodeTree.edges : NodeTree → List (NodeIx × NodeIx)
  | .leaf _ _ => []
  | .node n l r => (l.root, n) :: (r.root, n) :: (l.edges ++ r.edges)

/-- Every node but the root is the child in one edge. -/
theorem NodeTree.edges_perm (t : NodeTree) : (t.root :: t.edges.map Prod.fst).Perm t.postorder := by
  induction t with
  | leaf n x => exact .refl _
  | node n l r ihl ihr =>
    rw [List.perm_iff_count] at *
    intro m
    have hl := ihl m
    have hr := ihr m
    simp only [NodeTree.edges, NodeTree.postorder, NodeTree.root_node, List.map_cons, List.map_append, List.count_cons,
      List.count_append, List.count_nil] at hl hr ⊢
    omega

/-- The children in the edges of separate trees are the nodes but the roots. -/
theorem edges_flatMap_perm (ts : List NodeTree) :
    (ts.map NodeTree.root ++ (ts.flatMap NodeTree.edges).map Prod.fst).Perm (ts.flatMap NodeTree.postorder) := by
  induction ts with
  | nil => exact .refl _
  | cons t ts ih =>
    have ht := t.edges_perm
    rw [List.perm_iff_count] at *
    intro m
    have ht := ht m
    have ih := ih m
    simp only [List.map_cons, List.flatMap_cons, List.map_append, List.count_cons, List.cons_append,
      List.count_append] at ht ih ⊢
    omega

section
variable {s u : State} {w : Sym → Value} {hp : Bool} {t : NodeTree} {ts : List NodeTree}

/-- The children of a held tree's node are those of the tree's edges. -/
theorem State.Holds.mem_edges (h : u.Holds w hp t) {c p : NodeIx} (hmem : p ∈ t.postorder) (hc : u.IsChild c p) :
    (c, p) ∈ t.edges := by
  induction t generalizing hp with
  | leaf n x =>
    obtain rfl : p = n := by simpa [NodeTree.postorder] using hmem
    have hn : u.slot? p = some _ := h
    obtain ⟨-, hinner, -⟩ := hc
    simp [node_of_slot? hn, Node.isLeaf] at hinner
  | node n l r ihl ihr =>
    obtain ⟨hn, hl, hr⟩ := h
    simp only [NodeTree.postorder, List.mem_append, List.mem_singleton] at hmem
    simp only [NodeTree.edges, List.mem_cons, List.mem_append]
    obtain (hmem | hmem) | rfl := hmem
    · exact .inr (.inr (.inl (ihl hl hmem)))
    · exact .inr (.inr (.inr (ihr hr hmem)))
    · obtain ⟨-, -, hc⟩ := hc
      rw [node_of_slot? hn] at hc
      obtain rfl | rfl := hc
      · exact .inl rfl
      · exact .inr (.inl rfl)

/-- The two children of a held tree's node are distinct. -/
theorem State.Holds.left_ne_right (h : u.Holds w hp t) (hd : t.postorder.Nodup) {p : NodeIx} (hmem : p ∈ t.postorder)
    (hinner : (u.node p).isLeaf = false) : (u.node p).left ≠ (u.node p).right := by
  induction t generalizing hp with
  | leaf n x =>
    obtain rfl : p = n := by simpa [NodeTree.postorder] using hmem
    have hn : u.slot? p = some _ := h
    simp [node_of_slot? hn, Node.isLeaf] at hinner
  | node n l r ihl ihr =>
    obtain ⟨hn, hl, hr⟩ := h
    obtain ⟨hdl, hdr, hlr⟩ := List.nodup_append.1 (List.nodup_append.1 hd).1
    simp only [NodeTree.postorder, List.mem_append, List.mem_singleton] at hmem
    obtain (hmem | hmem) | rfl := hmem
    · exact ihl hl hdl hmem
    · exact ihr hr hdr hmem
    · rw [node_of_slot? hn]
      exact hlr _ l.root_mem_postorder _ r.root_mem_postorder

/-- Below every node of a held tree the links spell a tree. -/
theorem State.Holds.spelled (h : u.Holds w hp t) {n : NodeIx} (hn : n ∈ t.postorder) : ∃ t', t'.root = n ∧ u.Spells t' := by
  obtain ⟨t', hroot, -, hp', ht'⟩ := h.subtree hn
  exact ⟨t', hroot, ht'.spells⟩

/-- Growing trees adds their nodes to the forest. -/
theorem State.Grown.adds (h : s.Grown u w ts) : s.Adds u (· ∈ ts.flatMap NodeTree.postorder) := by
  have hnode : ∀ n, n ∉ ts.flatMap NodeTree.postorder → u.node n = s.node n := fun n hn => by
    rw [State.node, h.others n hn]; rfl
  have hedges := (edges_flatMap_perm ts).nodup_iff.2 h.distinct
  have hnodup : ((ts.flatMap NodeTree.edges).map Prod.fst).Nodup := (List.nodup_append.1 hedges).2.1
  have hroots := (List.nodup_append.1 hedges).2.2
  have hedge : ∀ c p, p ∈ ts.flatMap NodeTree.postorder → u.IsChild c p → (c, p) ∈ ts.flatMap NodeTree.edges := by
    intro c p hp hc
    obtain ⟨t, ht, hp⟩ := List.mem_flatMap.1 hp
    exact List.mem_flatMap.2 ⟨t, ht, (h.holds t ht).mem_edges hp hc⟩
  have hnew : ∀ c p, (c, p) ∈ ts.flatMap NodeTree.edges → c ∈ ts.flatMap NodeTree.postorder := fun c p hcp =>
    (edges_flatMap_perm ts).mem_iff.1 (List.mem_append_right _ (List.mem_map_of_mem (f := Prod.fst) hcp))
  constructor
  case fresh => exact h.fresh
  case live => exact fun n hn => by rw [State.valid, h.others n hn]; rfl
  case links => exact fun n hn => by rw [State.SameLinks, hnode n hn]; exact ⟨rfl, rfl, rfl⟩
  case marks => exact fun n hn hp => by rwa [hnode n hn]
  case children =>
    intro p hp hinner
    have hv := h.valid hp
    have hmem := fun c hc => h.valid (hnew c p (hedge c p hp ⟨hv, hinner, hc⟩))
    obtain ⟨t, ht, hpt⟩ := List.mem_flatMap.1 hp
    exact ⟨hmem _ (.inl rfl), hmem _ (.inr rfl),
      (h.holds t ht).left_ne_right ((List.nodup_flatMap.1 h.distinct).1 t ht) hpt hinner⟩
  case owned =>
    intro c p hp hc
    have hcp := hedge c p hp hc
    obtain ⟨t, ht, hct⟩ := List.mem_flatMap.1 (hnew c p hcp)
    have hne : c ≠ t.root := fun e =>
      hroots t.root (List.mem_map_of_mem ht) c (List.mem_map_of_mem (f := Prod.fst) hcp) e.symm
    rw [(h.holds t ht).hasParent hct, decide_eq_true hne]
  case orphan => exact fun c p hp hc => .inl (hnew c p (hedge c p hp hc))
  case oneOwner =>
    intro c p q hp hq hcp hcq
    exact congrArg Prod.snd (List.inj_on_of_nodup_map hnodup (hedge c p hp hcp) (hedge c q hq hcq) rfl)
  case spelled =>
    intro n hn
    obtain ⟨t, ht, hn⟩ := List.mem_flatMap.1 hn
    exact (h.holds t ht).spelled hn

end

/-! ## The commands -/

theorem dependsOn_forest : DependsOn State.Forest [.arena] := fun _ _ _ hstores hs =>
  hs.of_arena_eq (hstores .arena (by simp))

/-- Without live nodes there is nothing to ask. -/
theorem State.Forest.resetBlock (s : State) : s.resetBlock.Forest := by
  have hfree : ∀ n, s.resetBlock.valid n = false := by
    intro n
    rw [State.valid, State.slot?]
    split
    · simp [State.resetBlock, State.reset, Node.free]
    · rfl
  constructor
  · exact fun p hv => by simp [hfree] at hv
  · rintro c p ⟨hv, -⟩; simp [hfree] at hv
  · rintro c p q ⟨hv, -⟩; simp [hfree] at hv
  · exact fun n hv => by simp [hfree] at hv

theorem exec_forest {i : Instr} {s : State} (hw : ∃ st ∈ [Store.arena], st ∈ mayWrite i) (hs : s.Forest) :
    s.Ends State.Forest (exec i s) := by
  cases i with
  | reset => exact .responded (State.Forest.resetBlock s) (.inr rfl)
  | nodeLeaf x f =>
    exact execNodeLeaf_ends x f hs fun hfree =>
      ((State.Grown.of_arena_eq rfl).makeLeaf (w := fun _ => f) hfree x).adds.forest hs
  | nodeJoin l r => exact execNodeJoin_ends l r hs fun h => (h.adds hs).forest hs
  | release n =>
    refine execRelease_ends n hs fun t hv hp ht => ?_
    obtain ⟨rfl, hspells⟩ := treeAt_eq_some_iff.1 ht
    exact hs.freeTree hspells hv hp
  | build =>
    refine execBuild_ends hs fun u e hu => ?_
    exact State.Forest.of_arena_eq (s := u) (dequeueNode_arena u) (hu.grown.adds.forest hs)
  | deserialize =>
    have hread : ∀ n bs u, s.sourceRead n = some (bs, u) → u.Forest := fun n bs u hu =>
      State.Forest.of_arena_eq (by rw [(sourceRead_eq hu).2]) hs
    refine execDeserialize_ends hs hread fun n bs u v t hu hgrown _ _ => ?_
    exact State.Forest.of_arena_eq (s := v) rfl (hgrown.adds.forest (hread n bs u hu))
  | _ => simp [mayWrite] at hw

/-- Settles O22: leaves, joins, BUILD and DESERIALIZE add nodes to the forest as it allows, RELEASE takes whole trees, and reset
leaves no live node. -/
theorem stepKeepsTheForest : Obligations.StepKeepsTheForest := by
  unfold Obligations.StepKeepsTheForest
  intro s t hs h
  exact step_keeps dependsOn_forest State.Forest.resetBlock (fun _ _ => exec_forest) hs h

end Sys2Proof.Machine
end

section
/-! SUPPORT. The two byte channels (spec/20_memory.md R95, R96, R98, R99): what a read takes and a write appends, and that no step
takes back what a channel has moved. The commands that send bytes in one write (R90, R93). -/

namespace Sys2Proof.Machine

/-! ## Reads and writes of a channel -/

/-- The bytes taken stand first in the source's plan, and a read shorter than asked is one the source ended. -/
theorem takeBytes_cases {n : Nat} {src rest : List SourceEvent} {t : List Byte} (h : takeBytes n src = some (t, rest)) :
    (t.length = n → src = t.map .byte ++ rest) ∧
    (t.length < n → src = t.map .byte ++ .zeroTransfer :: rest ∨ src = t.map .byte ∧ rest = []) := by
  induction n generalizing src t with
  | zero => cases src <;> (cases h; exact ⟨fun _ => rfl, fun hlt => absurd hlt (Nat.lt_irrefl _)⟩)
  | succ n ih =>
    cases src with
    | nil => cases h; exact ⟨fun hn => (by cases hn), fun _ => .inr ⟨rfl, rfl⟩⟩
    | cons e src =>
      cases e with
      | byte b =>
        simp only [takeBytes] at h
        split at h
        · rename_i t' rest' h'
          cases h
          obtain ⟨hwhole, hshort⟩ := ih h'
          simpa using And.intro hwhole hshort
        · cases h
      | zeroTransfer => cases h; exact ⟨fun hn => (by cases hn), fun _ => .inl rfl⟩
      | never => cases h

/-- A sink accepts at most the bytes offered, and fewer only where it ends the write. -/
theorem acceptBytes_cases {bs : List Byte} {plan rest : List SinkEvent} {w : Nat}
    (h : acceptBytes bs plan = some (w, rest)) :
    w ≤ bs.length ∧ (w < bs.length → plan = List.replicate w .accept ++ .zeroTransfer :: rest) := by
  induction bs generalizing plan w with
  | nil => cases plan <;> (cases h; exact ⟨Nat.le_refl _, fun hlt => absurd hlt (Nat.lt_irrefl _)⟩)
  | cons b bs ih =>
    cases plan with
    | nil => cases h; exact ⟨Nat.le_refl _, fun hlt => absurd hlt (Nat.lt_irrefl _)⟩
    | cons e plan =>
      cases e with
      | accept =>
        simp only [acceptBytes] at h
        split at h
        · rename_i w' rest' h'
          cases h
          obtain ⟨hle, hshort⟩ := ih h'
          exact ⟨Nat.succ_le_succ hle, fun hlt => by
            rw [hshort (Nat.lt_of_succ_lt_succ hlt), List.replicate_succ, List.cons_append]⟩
        · cases h
      | zeroTransfer => cases h; exact ⟨Nat.zero_le _, fun _ => rfl⟩
      | never => cases h

theorem takeBytes_of_sourceRead {s s' : State} {n : Nat} {t : List Byte} (h : s.sourceRead n = some (t, s')) :
    takeBytes n s.source = some (t, s'.source) := by
  unfold State.sourceRead at h
  split at h
  · rename_i h'; cases h; exact h'
  · cases h

theorem acceptBytes_of_sinkWrite {s s' : State} {bs : List Byte} {w : Nat} (h : s.sinkWrite bs = some (w, s')) :
    acceptBytes bs s.sinkPlan = some (w, s'.sinkPlan) := by
  unfold State.sinkWrite at h
  split at h
  · rename_i h'; cases h; exact h'
  · cases h

/-- Settles O50: the plans of the two channels are followed event by event. -/
theorem channelsMoveBytesInOrder : Obligations.ChannelsMoveBytesInOrder := by
  unfold Obligations.ChannelsMoveBytesInOrder
  refine fun s => ⟨fun n t s' h => ?_, fun bs w s' h => ?_⟩
  · obtain ⟨hle, hframe⟩ := sourceRead_eq h
    exact ⟨hle, hframe, takeBytes_cases (takeBytes_of_sourceRead h)⟩
  · obtain ⟨hle, hshort⟩ := acceptBytes_cases (acceptBytes_of_sinkWrite h)
    exact ⟨hle, sinkWrite_eq h, hshort⟩

/-! ## What a channel has moved stays moved -/

/-- From s to u the sink's bytes were only added to, and no byte taken from the source was given back. -/
structure State.MovedOn (s u : State) : Prop where
  sink  : s.sink <+: u.sink
  taken : s.taken ≤ u.taken

section
variable {s u t : State}

theorem State.MovedOn.refl (s : State) : s.MovedOn s := ⟨List.prefix_rfl, Nat.le_refl _⟩

theorem State.MovedOn.sourceRead (h : s.MovedOn u) {n : Nat} {bs : List Byte} (hread : u.sourceRead n = some (bs, t)) :
    s.MovedOn t := by
  rw [(sourceRead_eq hread).2]
  exact ⟨h.sink, Nat.le_add_right_of_le h.taken⟩

theorem keptBySink_movedOn (s : State) : KeptBySink s.MovedOn := by
  intro u t bs w hu h
  rw [sinkWrite_eq h]
  exact ⟨hu.sink.trans (List.prefix_append _ _), hu.taken⟩

theorem keptByReads_movedOn (s : State) : KeptByReads s.MovedOn where
  bit u t b hu h := by
    obtain ⟨-, rfl⟩ | ⟨bs, v, hread, -, rfl⟩ := readBit_cases h
    · exact ⟨hu.sink, hu.taken⟩
    · have hv := hu.sourceRead hread
      exact ⟨hv.sink, hv.taken⟩
  exhausted u t hu h := by
    rw [(readBit_exhausted h).2]
    exact ⟨hu.sink, hu.taken⟩

section
variable {P : State → Prop} (hsink : KeptBySink P) (hbuf : ∀ u b c, P u → P { u with buf := b, wrCur := c })
include hsink hbuf

/-- The ends of a written bit keep what SinkWrite keeps and the buffer and WR_CUR do not matter for. -/
theorem writeBit_ends (hs : P s) (b : Bool) :
    (∃ t, s.writeBit b = .done t ∧ P t) ∨ (∃ v w, s.writeBit b = .raised (v.raise .eSink w) ∧ P v) ∨
      s.writeBit b = .never := by
  have hstored := hbuf s (putBit s.buf s.wrCur b) (s.wrCur + 1) hs
  dsimp only [State.writeBit, State.setBufBit]
  split
  · split
    · rename_i w u hw
      have hu := hbuf u u.buf 0 (hsink _ _ _ _ hstored hw)
      split
      · exact .inr (.inl ⟨_, value w, rfl, hu⟩)
      · exact .inl ⟨_, rfl, hu⟩
    · exact .inr (.inr rfl)
  · exact .inl ⟨_, rfl, hstored⟩

theorem keptByWrites_of_sink : KeptByWrites P where
  done u t b hu h := by
    obtain ⟨v, hv, hP⟩ | ⟨v, w, hv, -⟩ | hv := writeBit_ends hsink hbuf hu b <;> rw [hv] at h <;> cases h
    exact hP
  raised u t b hu h := by
    obtain ⟨v, hv, -⟩ | ⟨v, w, hv, hP⟩ | hv := writeBit_ends hsink hbuf hu b <;> rw [hv] at h <;> cases h
    exact ⟨v, w, hP, rfl⟩

end

theorem keptByWrites_movedOn (s : State) : KeptByWrites s.MovedOn :=
  keptByWrites_of_sink (keptBySink_movedOn s) fun _ _ _ hu => ⟨hu.sink, hu.taken⟩

/-- The commands that may write a channel only move it on. -/
theorem exec_movedOn {i : Instr} (hw : ∃ st ∈ [Store.source, .sink], st ∈ mayWrite i) : s.Ends s.MovedOn (exec i s) := by
  have h := State.MovedOn.refl s
  have hsends := fun he bs v => ends_sendThenRespond (s := s) he h (keptBySink_movedOn s) bs v
  cases i with
  | bcRender | hdrWrite => exact ends_unlessHalted h fun he => hsends he _ _
  | serialize =>
    exact ends_unlessHalted h fun he => ends_withNode h fun hv => ends_withTree hv fun _ _ => hsends he _ _
  | deserialize =>
    refine execDeserialize_ends h (fun n bs u hread => h.sourceRead hread) fun n bs u v t hread _ hframe _ => ?_
    rw [hframe]
    have hu := h.sourceRead hread
    exact ⟨hu.sink, hu.taken⟩
  | readBit => exact execReadBit_ends h (keptByReads_movedOn s)
  | decSym => exact execDecSym_ends h (keptByReads_movedOn s)
  | decodeAll => exact execDecodeAll_ends h (keptByReads_movedOn s) (keptBySink_movedOn s)
  | writeCode x => exact execWriteCode_ends x h (keptByWrites_movedOn s)
  | writeBc => exact ends_unlessHalted h fun he => ends_writeThenRespond he h (keptByWrites_movedOn s) _
  | flush =>
    refine execFlush_ends h fun n w u _ hsent => ?_
    have hpad : s.MovedOn (s.pad s.wrCur (8 * n - s.wrCur)) := by
      obtain ⟨-, hsink⟩ := (wrote_pad (8 * n - s.wrCur) s s.wrCur).stores .sink (by simp)
      obtain ⟨-, htaken⟩ := (wrote_pad (8 * n - s.wrCur) s s.wrCur).stores .source (by simp)
      exact ⟨hsink ▸ List.prefix_rfl, htaken.ge⟩
    have hu := keptBySink_movedOn s _ _ _ _ hpad hsent
    exact ⟨hu.sink, hu.taken⟩
  | hdrRead =>
    refine execHdrRead_ends h fun bs u hread => ?_
    have hu := h.sourceRead hread
    exact ⟨hu, fun _ _ _ => ⟨hu.sink, hu.taken⟩⟩
  | _ => simp [mayWrite] at hw

theorem dependsOn_movedOn (s : State) : DependsOn s.MovedOn [.source, .sink] := by
  intro u t _ hstores hu
  obtain ⟨-, htaken⟩ := hstores .source (by simp)
  obtain ⟨-, hsink⟩ := hstores .sink (by simp)
  exact ⟨hsink ▸ hu.sink, htaken ▸ hu.taken⟩

/-- Every instruction moves the channels on: one that may write neither leaves both as they are. -/
theorem movedOn_of_exec {i : Instr} (h : exec i s = .next t) : s.MovedOn t := by
  by_cases hw : ∃ st ∈ [Store.source, .sink], st ∈ mayWrite i
  · have hends := exec_movedOn (s := s) hw
    rw [h] at hends
    exact hends.keeps (dependsOn_movedOn s)
  · obtain ⟨hparams, -, hstores⟩ := everyCommandKeepsItsFrame i s t h
    exact dependsOn_movedOn s s t hparams (fun st hst => hstores st fun hm => hw ⟨st, hst, hm⟩) (.refl s)

end

/-- Settles O19: an instruction moves the channels on and answers once, and a reset leaves them as they are. -/
theorem channelsOnlyMoveForward : Obligations.ChannelsOnlyMoveForward := by
  unfold Obligations.ChannelsOnlyMoveForward
  intro s t
  refine step_cases
    (Q := fun r => r = .next t → s.sink <+: t.sink ∧ s.resps <+: t.resps ∧ s.taken ≤ t.taken ∧ t.params = s.params) s
    ?hwait ?hreset ?hrefuse ?hexec
  case hwait => rintro ⟨rfl⟩; exact ⟨List.prefix_rfl, List.prefix_rfl, Nat.le_refl _, rfl⟩
  case hreset => rintro rest ⟨rfl⟩; exact ⟨List.prefix_rfl, List.prefix_rfl, Nat.le_refl _, rfl⟩
  case hrefuse =>
    rintro rest c ⟨rfl⟩
    unfold State.refuseCommand
    split <;> exact ⟨List.prefix_rfl, List.prefix_append _ _, Nat.le_refl _, rfl⟩
  case hexec =>
    intro rest i h
    obtain ⟨-, a, hresps, -⟩ := exec_answersOnce i _ t h
    obtain ⟨hsink, htaken⟩ := movedOn_of_exec h
    exact ⟨hsink, hresps ▸ List.prefix_append _ _, htaken, (everyCommandKeepsItsFrame i _ t h).1⟩

/-! ## Commands that send their bytes in one write -/

/-- Settles O46: by induction on the tree. -/
theorem dumpIsThreeBytesALeafLessOne : Obligations.DumpIsThreeBytesALeafLessOne := NodeTree.length_dump

theorem sends_sendThenRespond (s : State) (bs : List Byte) (v : Value) : s.Sends (s.sendThenRespond bs v) bs v := by
  unfold State.sendThenRespond
  refine ⟨fun hopen => ?_, fun w s' hw => by rw [hw], fun hnever => by rw [hnever]⟩
  rw [sinkWrite_open hopen]
  exact congrArg _ (if_neg (Nat.lt_irrefl _))

/-- Byte j of a little-endian number is the lowest byte of the number shifted right by 8j bits (00_scope.md R12). -/
theorem leBytes_eq (n k : Nat) : leBytes n k = (List.range n).map fun j => BitVec.ofNat 8 (k >>> (8 * j)) := by
  induction n generalizing k with
  | zero => rfl
  | succ n ih =>
    have hshift : ∀ j, (k / 256) >>> (8 * j) = k >>> (8 * (j + 1)) := fun j => by
      rw [Nat.mul_succ, Nat.add_comm, Nat.shiftRight_add, Nat.shiftRight_eq_div_pow k 8]
    simp [leBytes, ih, List.range_succ_eq_map, hshift]

/-- Byte j of a word is its bits 8j to 8j + 7. -/
theorem leBytes_toNat {w : Nat} (n : Nat) (x : BitVec w) :
    leBytes n x.toNat = (List.range n).map fun j => x.extractLsb' (8 * j) 8 := leBytes_eq n x.toNat

theorem headerBytes_eq (s : State) : s.headerBytes = headerOf s.params.magic s.hdrPerms s.hdrTsize s.hdrFsize := by
  simp only [State.headerBytes, headerOf, leBytes_toNat]

/-- Settles O51: each of the three commands ends with one write of its bytes. -/
theorem sendingCommandsSendTheirBytes : Obligations.SendingCommandsSendTheirBytes := by
  unfold Obligations.SendingCommandsSendTheirBytes
  refine fun s he => ⟨?render, ?header, fun tr hv htree => ?serialize⟩
  case render =>
    change s.Sends (s.unlessHalted _) _ _
    rw [unlessHalted_running he]
    exact sends_sendThenRespond s _ _
  case header =>
    change s.Sends (s.unlessHalted _) _ _
    rw [unlessHalted_running he, headerBytes_eq]
    exact sends_sendThenRespond s _ _
  case serialize =>
    change s.Sends (s.unlessHalted (s.withNode s.root (s.withTree s.root _))) _ _
    rw [unlessHalted_running he, withNode_valid hv, withTree_some htree]
    exact sends_sendThenRespond s _ _

end Sys2Proof.Machine
end

section
/-! SUPPORT. The bits of the block buffer (spec/20_memory.md R84): the bit commands, FLUSH's padding, and the bytes of the buffer
as bits (spec/46_bitstream.md R313 to R315, R319). -/

namespace Sys2Proof.Machine

/-! ## One bit -/

theorem bufBit_setBufBit (s : State) {i : Nat} (hi : i < 65536) (b : Bool) (j : Nat) :
    (s.setBufBit i b).bufBit j = if j = i then b else s.bufBit j := putBit_getLsbD s.buf i j b hi

theorem withBufIndex_outside {s : State} {k : BitVec 16} (h : s.bufBits ≤ k.toNat) (u : State) :
    s.withBufIndex k u = s.raise .eOperand (k.setWidth 64) := if_pos h

theorem withBufIndex_inside {s : State} {k : BitVec 16} (h : k.toNat < s.bufBits) (u : State) : s.withBufIndex k u = u :=
  if_neg (Nat.not_le.2 h)

/-- Settles O53: the three commands check their index the same way, and a bit stored leaves the others. -/
theorem bitCommandsActOnOneBit : Obligations.BitCommandsActOnOneBit := by
  unfold Obligations.BitCommandsActOnOneBit
  intro s k he
  refine ⟨fun hk i hi => ?outside, fun hk => ?inside⟩
  case outside =>
    have hrefuse : ∀ u, s.unlessHalted (.next (s.withBufIndex k u)) = .next (s.raise .eOperand (value k.toNat)) := by
      intro u
      rw [unlessHalted_running he, withBufIndex_outside hk, value, BitVec.ofNat_toNat]
    simp only [List.mem_cons, List.not_mem_nil, or_false] at hi
    obtain rfl | rfl | rfl := hi <;> exact hrefuse _
  case inside =>
    have hruns : ∀ u, s.unlessHalted (.next (s.withBufIndex k u)) = .next u := fun u => by
      rw [unlessHalted_running he, withBufIndex_inside hk]
    have hbit := fun b => bufBit_setBufBit s (Nat.lt_of_lt_of_le hk s.bufBits_le) b
    exact ⟨hruns _, ⟨(s.setBufBit k.toNat true).buf, hruns _, hbit true⟩,
      ⟨(s.setBufBit k.toNat false).buf, hruns _, hbit false⟩⟩

/-! ## The bytes of the buffer as bits -/

theorem bitsOf_append (bs cs : List Byte) : bitsOf (bs ++ cs) = bitsOf bs ++ bitsOf cs := List.flatMap_append

theorem length_bitsOf (bs : List Byte) : (bitsOf bs).length = 8 * bs.length := by
  simp [bitsOf, List.length_flatMap, Nat.mul_comm]

theorem length_bufBytes (s : State) (n : Nat) : (s.bufBytes n).length = n := by simp [State.bufBytes]

/-- The first n bytes of the buffer are its first 8n bits. -/
theorem bitsOf_bufBytes (s : State) (n : Nat) : bitsOf (s.bufBytes n) = (List.range (8 * n)).map s.bufBit := by
  induction n with
  | zero => rfl
  | succ n ih =>
    have hlast : bitsOf [s.bufByte n] = ((List.range 8).map (8 * n + ·)).map s.bufBit := by
      rw [bitsOf, List.flatMap_singleton, List.map_map]
      refine List.map_congr_left fun i hi => ?_
      simp [State.bufByte, State.bufBit, List.mem_range.1 hi]
    calc bitsOf (s.bufBytes (n + 1))
        = bitsOf (s.bufBytes n ++ [s.bufByte n]) := by simp [State.bufBytes, List.range_succ]
      _ = (List.range (8 * n)).map s.bufBit ++ ((List.range 8).map (8 * n + ·)).map s.bufBit := by
        rw [bitsOf_append, ih, hlast]
      _ = (List.range (8 * (n + 1))).map s.bufBit := by rw [← List.map_append, ← List.range_add, Nat.mul_succ]

/-! ## FLUSH -/

/-- FLUSH's padding writes the buffer and counts its draws. -/
theorem pad_eq (count : Nat) (s : State) (i : Nat) :
    s.pad i count = { s with buf := (s.pad i count).buf, draws := (s.pad i count).draws } := by
  induction count generalizing s i with
  | zero => rfl
  | succ count ih => exact ih _ (i + 1)

/-- FLUSH's padding leaves the bits before and after it. -/
theorem bufBit_pad (count : Nat) (s : State) {i j : Nat} (hi : i + count ≤ 65536) (hj : j < i ∨ i + count ≤ j) :
    (s.pad i count).bufBit j = s.bufBit j := by
  induction count generalizing s i with
  | zero => rfl
  | succ count ih =>
    rw [State.pad, ih _ (by omega) (by omega)]
    exact (bufBit_setBufBit s (by omega) _ j).trans (if_neg (by omega))

/-- A SinkWrite does not look at WR_CUR. -/
theorem sinkWrite_wrCur (s : State) (c : Nat) (bs : List Byte) :
    { s with wrCur := c }.sinkWrite bs = (s.sinkWrite bs).map fun p => (p.1, { p.2 with wrCur := c }) := by
  unfold State.sinkWrite
  dsimp only
  split <;> rfl

/-- The state in which FLUSH offers its bytes: padded up to the next byte boundary (46_bitstream.md R319). -/
def State.padded (s : State) : State := s.pad s.wrCur (8 * ((s.wrCur + 7) / 8) - s.wrCur)

theorem padded_eq (s : State) : s.padded = { s with buf := s.padded.buf, draws := s.padded.draws } := pad_eq _ s _

/-- FLUSH is one SinkWrite of the padded buffer's bytes, with WR_CUR at 0. -/
theorem execFlush_sent {s t : State} {w : Nat} (he : s.err = false)
    (h : { s.padded with wrCur := 0 }.sinkWrite (s.padded.bufBytes ((s.wrCur + 7) / 8)) = some (w, t)) :
    execFlush s = .next (if w < (s.wrCur + 7) / 8 then t.raise .eSink (value w)
      else t.respond .ok (value ((s.wrCur + 7) / 8))) := by
  rw [sinkWrite_wrCur, Option.map_eq_some_iff] at h
  obtain ⟨⟨w', u⟩, hsent, heq⟩ := h
  cases heq
  rw [State.padded] at hsent
  rw [execFlush, unlessHalted_running he]
  dsimp only
  rw [hsent]

/-- Padding inside the buffer leaves the bits before WR_CUR and those after the bytes that are sent. -/
theorem bufBit_padded {s : State} (hcur : s.wrCur < s.bufBits) {j : Nat} (hj : j < s.wrCur ∨ 8 * ((s.wrCur + 7) / 8) ≤ j) :
    s.padded.bufBit j = s.bufBit j := by
  have hle := s.bufBits_le
  have hbits := s.bufBits_eq
  exact bufBit_pad _ s (by omega) (by omega)

/-- The bytes FLUSH sends begin with the pending bits. -/
theorem take_bitsOf_padded {s : State} (hcur : s.wrCur < s.bufBits) :
    (bitsOf (s.padded.bufBytes ((s.wrCur + 7) / 8))).take s.wrCur = s.pending := by
  rw [bitsOf_bufBytes, ← List.map_take, List.take_range, Nat.min_eq_left (by omega)]
  exact List.map_congr_left fun j hj => bufBit_padded hcur (.inl (List.mem_range.1 hj))

/-- Settles O58: padding up to the next byte boundary leaves the pending bits, and the bytes go to the sink in one write. -/
theorem flushSendsThePendingBits : Obligations.FlushSendsThePendingBits := by
  unfold Obligations.FlushSendsThePendingBits
  intro s he hcur
  refine ⟨s.padded.buf, s.padded.draws, ?_⟩
  intro t bs
  have ht : t = { s.padded with wrCur := 0 } := congrArg (fun p : State => { p with wrCur := 0 }) (padded_eq s).symm
  have hbs : bs = s.padded.bufBytes ((s.wrCur + 7) / 8) := rfl
  have hlen : bs.length = (s.wrCur + 7) / 8 := length_bufBytes _ _
  have hsent : ∀ w t', t.sinkWrite bs = some (w, t') → exec .flush s =
      .next (if w < bs.length then t'.raise .eSink (value w) else t'.respond .ok (value bs.length)) := by
    intro w t' h
    rw [ht, hbs] at h
    rw [hlen]
    exact execFlush_sent he h
  refine ⟨hlen, take_bitsOf_padded hcur, fun j hj => ?kept, fun hopen => ?opened, hsent⟩
  case kept =>
    rw [hlen] at hj
    exact bufBit_padded hcur hj
  case opened =>
    rw [hsent _ _ (sinkWrite_open (s := t) hopen bs), if_neg (Nat.lt_irrefl _)]

end Sys2Proof.Machine
end

section
/-! SUPPORT. The bit reader (spec/46_bitstream.md R311): the bits it has yet to return, over any number of refills. -/

namespace Sys2Proof.Machine

theorem takeBytes_bytes (n : Nat) (bs : List Byte) :
    takeBytes n (bs.map .byte) = some (bs.take n, (bs.drop n).map .byte) := by
  induction n generalizing bs with
  | zero => cases bs <;> rfl
  | succ n ih =>
    cases bs with
    | nil => rfl
    | cons b bs => simp only [List.map_cons, takeBytes, ih, List.take_succ_cons, List.drop_succ_cons]

/-- The loaded bits not yet returned: RD_CUR up to RD_END (10_state.md R47). -/
def State.unread (s : State) : List Bool := (List.range' s.rdCur (s.rdEnd - s.rdCur)).map s.bufBit

/-- The reader has the bits l to return: the loaded ones, then those of the bytes the source still supplies. -/
structure State.Reads (s : State) (l : List Bool) : Prop where
  loaded   : s.rdCur ≤ s.rdEnd
  supplied : ∃ bs, s.source = bs.map .byte ∧ l = s.unread ++ bitsOf bs

theorem unread_of_usedUp {s : State} (h : s.rdCur = s.rdEnd) : s.unread = [] := by simp [State.unread, h]

theorem unread_of_lt {s : State} (h : s.rdCur < s.rdEnd) :
    s.unread = s.bufBit s.rdCur :: { s with rdCur := s.rdCur + 1 }.unread := by
  obtain ⟨k, hk⟩ := Nat.exists_eq_add_of_lt h
  have h0 : s.rdEnd - s.rdCur = k + 1 := by omega
  have h1 : s.rdEnd - (s.rdCur + 1) = k := by omega
  simp only [State.unread, h0, h1, List.range'_succ, List.map_cons]
  rfl

/-- The bit at RD_CUR is the first of those the reader has to return. -/
theorem State.Reads.nextBit {s : State} {b : Bool} {l : List Bool} (h : s.Reads (b :: l)) (hlt : s.rdCur < s.rdEnd) :
    ∃ t, s.nextBit = .bit b t ∧ t.Reads l := by
  obtain ⟨-, bs, hsource, hl⟩ := h
  rw [unread_of_lt hlt, List.cons_append, List.cons.injEq] at hl
  obtain ⟨rfl, rfl⟩ := hl
  exact ⟨_, rfl, hlt, bs, hsource, rfl⟩

/-- The buffer holds the bytes of a refill in order. -/
theorem bufBytes_load (s : State) {t : List Byte} (ht : t.length ≤ 8192) : (s.load t).bufBytes t.length = t := by
  refine List.ext_getElem (length_bufBytes _ _) fun j _ hj => ?_
  simp only [State.bufBytes, List.getElem_map, List.getElem_range]
  refine BitVec.eq_of_getLsbD_eq fun i hi => ?_
  have hdiv : (8 * j + i) / 8 = j := by omega
  have hmod : (8 * j + i) % 8 = i := by omega
  simp [State.bufByte, hi, putBytes_getLsbD t s.buf 0 _ (by omega), hdiv, hmod, hj]

/-- After a refill the bits to return are those of its bytes. -/
theorem unread_load (s : State) {t : List Byte} (ht : t.length ≤ 8192) : (s.load t).unread = bitsOf t := by
  calc (s.load t).unread = bitsOf ((s.load t).bufBytes t.length) := by
        rw [bitsOf_bufBytes, List.range_eq_range']; rfl
    _ = bitsOf t := by rw [bufBytes_load s ht]

/-- A used-up block is refilled with the next bytes of the source, which leaves the bits to return as they are. -/
theorem State.Reads.refill {s : State} {b : Bool} {l : List Bool} (h : s.Reads (b :: l)) (hused : s.rdCur = s.rdEnd) :
    ∃ u : State, s.readBit = u.nextBit ∧ u.Reads (b :: l) ∧ u.rdCur < u.rdEnd := by
  obtain ⟨-, bs, hsource, hl⟩ := h
  rw [unread_of_usedUp hused, List.nil_append] at hl
  cases bs with
  | nil => cases hl
  | cons c bs =>
    obtain ⟨n, hn⟩ : ∃ n, s.params.blockBytes = n + 1 := ⟨_, rfl⟩
    have hread : s.sourceRead (n + 1) = some (c :: bs.take n, { s with
        source := (bs.drop n).map .byte, taken := s.taken + (c :: bs.take n).length }) := by
      rw [State.sourceRead, hsource, takeBytes_bytes]; rfl
    have hlen : (c :: bs.take n).length ≤ 8192 := Nat.le_trans (sourceRead_eq hread).1 (hn ▸ Params.blockBytes_le s.params)
    refine ⟨_, by rw [State.readBit, if_pos hused, hn, hread], ⟨Nat.zero_le _, bs.drop n, rfl, ?_⟩, ?_⟩
    · rw [unread_load _ hlen, ← bitsOf_append, List.cons_append, List.take_append_drop, hl]
    · simp

theorem State.Reads.readBit {s : State} {b : Bool} {l : List Bool} (h : s.Reads (b :: l)) :
    ∃ t, s.readBit = .bit b t ∧ t.Reads l := by
  by_cases hused : s.rdCur = s.rdEnd
  · obtain ⟨u, hu, hreads, hlt⟩ := h.refill hused
    rw [hu]
    exact hreads.nextBit hlt
  · rw [State.readBit, if_neg hused]
    exact h.nextBit (Nat.lt_of_le_of_ne h.loaded hused)

theorem State.Reads.readsBits {s : State} {p l : List Bool} (h : s.Reads (p ++ l)) :
    ∃ t, s.readsBits p = some t ∧ t.Reads l := by
  induction p generalizing s with
  | nil => exact ⟨s, rfl, h⟩
  | cons b p ih =>
    obtain ⟨t, ht, hreads⟩ := h.readBit
    simp only [State.readsBits, ht, if_true]
    exact ih hreads

/-- Settles O55: by induction on the bits, with a refill wherever the loaded block is used up. -/
theorem readerReturnsTheSourceBits : Obligations.ReaderReturnsTheSourceBits := by
  unfold Obligations.ReaderReturnsTheSourceBits
  intro s bs k hused hsource _
  have h : s.Reads ((bitsOf bs).take k ++ (bitsOf bs).drop k) :=
    ⟨Nat.le_of_eq hused, bs, hsource, by rw [List.take_append_drop, unread_of_usedUp hused, List.nil_append]⟩
  obtain ⟨t, ht, -⟩ := h.readsBits
  exact ⟨t, ht⟩

end Sys2Proof.Machine
end

section
/-! SUPPORT. The bit writer (spec/46_bitstream.md R310): the bits of a code go to the buffer, and each block they fill to the
sink. -/

namespace Sys2Proof.Machine

theorem length_toList (c : BitCode) : c.toList.length = c.len := by simp [BitCode.toList]

/-- The bytes of the blocks that n more bits fill, BLOCK_BYTES each (46_bitstream.md R310). -/
def State.bytesSent (s : State) (n : Nat) : Nat := (s.wrCur + n) / s.bufBits * s.params.blockBytes

/-- A sink that accepts every byte offered. -/
theorem sinkWrite_accepted {s : State} {bs : List Byte} (h : ∀ e ∈ s.sinkPlan.take bs.length, e = .accept) :
    s.sinkWrite bs = some (bs.length, { s with sinkPlan := s.sinkPlan.drop bs.length, sink := s.sink ++ bs }) := by
  rw [State.sinkWrite, acceptBytes_accept bs s.sinkPlan h]
  simp

/-- From s to t the writer has appended the bits l to those in the sink and the buffer, every block filled being accepted whole,
and no other buffer bit was written. -/
structure State.Appended (s : State) (l : List Bool) (t : State) : Prop where
  frame   : t = { s with buf := t.buf, wrCur := (s.wrCur + l.length) % s.bufBits,
                         sinkPlan := s.sinkPlan.drop (s.bytesSent l.length), sink := t.sink }
  written : t.written = s.written ++ l
  kept    : ∀ j, (∀ i < l.length, (s.wrCur + i) % s.bufBits ≠ j) → t.bufBit j = s.bufBit j

/-- The sink accepts every byte of the blocks that n more bits fill. -/
def State.SinkAccepts (s : State) (n : Nat) : Prop := ∀ e ∈ s.sinkPlan.take (s.bytesSent n), e = .accept

section
variable {s t u : State} {l l' : List Bool}

theorem State.Appended.refl (hcur : s.wrCur < s.bufBits) : s.Appended [] s where
  frame := by simp [State.bytesSent, Nat.mod_eq_of_lt hcur, Nat.div_eq_of_lt hcur]
  written := (List.append_nil _).symm
  kept _ _ := rfl

theorem State.Appended.bufBits (h : s.Appended l t) : t.bufBits = s.bufBits := by rw [h.frame]; rfl

theorem State.Appended.wrCur (h : s.Appended l t) : t.wrCur = (s.wrCur + l.length) % s.bufBits := by rw [h.frame]

theorem State.Appended.sinkPlan (h : s.Appended l t) : t.sinkPlan = s.sinkPlan.drop (s.bytesSent l.length) := by rw [h.frame]

/-- The blocks filled by both parts of a code are those the first part fills and those the rest fills after it. -/
theorem State.Appended.bytesSent (h : s.Appended l t) (n : Nat) :
    s.bytesSent (l.length + n) = s.bytesSent l.length + t.bytesSent n := by
  have hparams : t.params = s.params := by rw [h.frame]
  have hdiv := Nat.div_add_mod (s.wrCur + l.length) s.bufBits
  have hblocks : (s.wrCur + (l.length + n)) / s.bufBits =
      (s.wrCur + l.length) / s.bufBits + ((s.wrCur + l.length) % s.bufBits + n) / s.bufBits := by
    rw [← Nat.mul_add_div s.bufBits_pos, ← Nat.add_assoc, ← Nat.add_assoc, hdiv]
  rw [State.bytesSent, State.bytesSent, State.bytesSent, h.wrCur, h.bufBits, hparams, hblocks, Nat.add_mul]

theorem State.Appended.trans (h : s.Appended l t) (h' : t.Appended l' u) : s.Appended (l ++ l') u where
  frame := by
    have hplan : u.sinkPlan = s.sinkPlan.drop (s.bytesSent (l ++ l').length) := by
      rw [h'.sinkPlan, h.sinkPlan, List.drop_drop, List.length_append, h.bytesSent]
    have hcur : u.wrCur = (s.wrCur + (l ++ l').length) % s.bufBits := by
      rw [h'.wrCur, h.wrCur, h.bufBits, Nat.mod_add_mod, List.length_append, Nat.add_assoc]
    rw [← hplan, ← hcur, h'.frame, h.frame]
  written := by rw [h'.written, h.written, List.append_assoc]
  kept j hj := by
    have hlen := l.length_append (bs := l')
    have hfirst : t.bufBit j = s.bufBit j := h.kept j fun i hi => hj i (by omega)
    rw [← hfirst]
    refine h'.kept j fun i hi => ?_
    rw [h.wrCur, h.bufBits, Nat.mod_add_mod, Nat.add_assoc]
    exact hj _ (by omega)

theorem State.SinkAccepts.of_le {m n : Nat} (h : s.SinkAccepts n) (hle : m ≤ n) : s.SinkAccepts m := by
  have hbytes : s.bytesSent m ≤ s.bytesSent n :=
    Nat.mul_le_mul_right _ (Nat.div_le_div_right (Nat.add_le_add_left hle _))
  exact fun e he => h e ((List.take_prefix_take_left hbytes).subset he)

/-- What is left of the plan accepts the blocks of the rest of the code. -/
theorem State.Appended.sinkAccepts {n : Nat} (ha : s.Appended l t) (h : s.SinkAccepts (l.length + n)) : t.SinkAccepts n := by
  rw [State.SinkAccepts, ha.bytesSent, List.take_add] at h
  rw [State.SinkAccepts, ha.sinkPlan]
  exact fun e he => h e (List.mem_append_right _ he)

/-- s with the bit b stored at WR_CUR, and WR_CUR moved on. -/
def State.stored (s : State) (b : Bool) : State := { s.setBufBit s.wrCur b with wrCur := s.wrCur + 1 }

theorem pending_stored (hcur : s.wrCur < s.bufBits) (b : Bool) : (s.stored b).pending = s.pending ++ [b] := by
  have hbit : ∀ j, (s.stored b).bufBit j = if j = s.wrCur then b else s.bufBit j :=
    bufBit_setBufBit s (Nat.lt_of_lt_of_le hcur s.bufBits_le) b
  have hold : (List.range s.wrCur).map (s.stored b).bufBit = s.pending := List.map_congr_left fun j hj => by
    rw [hbit, if_neg (Nat.ne_of_lt (List.mem_range.1 hj))]
  change (List.range (s.wrCur + 1)).map (s.stored b).bufBit = _
  rw [List.range_succ, List.map_append, List.map_singleton, hold, hbit, if_pos rfl]

theorem bufBit_stored_of_ne (hcur : s.wrCur < s.bufBits) (b : Bool) {j : Nat}
    (hj : ∀ i < [b].length, (s.wrCur + i) % s.bufBits ≠ j) : (s.stored b).bufBit j = s.bufBit j := by
  have hne : j ≠ s.wrCur := fun h => hj 0 Nat.one_pos (by rw [h, Nat.add_zero, Nat.mod_eq_of_lt hcur])
  exact (bufBit_setBufBit s (Nat.lt_of_lt_of_le hcur s.bufBits_le) b j).trans (if_neg hne)

/-- A bit that does not fill the buffer stays there. -/
theorem writeBit_stored (hcur : s.wrCur < s.bufBits) (hfull : s.wrCur + 1 ≠ s.bufBits) (b : Bool) :
    ∃ t, s.writeBit b = .done t ∧ s.Appended [b] t := by
  have hlt : s.wrCur + 1 < s.bufBits := by omega
  refine ⟨s.stored b, if_neg hfull, ?frame, ?written, fun _ => bufBit_stored_of_ne hcur b⟩
  case frame => simp [State.bytesSent, State.stored, State.setBufBit, Nat.mod_eq_of_lt hlt, Nat.div_eq_of_lt hlt]
  case written =>
    rw [State.written, State.written, List.append_assoc, ← pending_stored hcur b]
    rfl

/-- A bit that fills the buffer sends the block, and ends the command where the sink does not take it whole. -/
theorem writeBit_full {w : Nat} {b : Bool} (hfull : s.wrCur + 1 = s.bufBits)
    (h : (s.stored b).sinkWrite ((s.stored b).bufBytes s.params.blockBytes) = some (w, t)) :
    s.writeBit b = if w < s.params.blockBytes then .raised ({ t with wrCur := 0 }.raise .eSink (value w))
      else .done { t with wrCur := 0 } := by
  rw [State.stored] at h
  dsimp only [State.writeBit]
  rw [if_pos hfull, h]

/-- The block that the bit b fills is the pending bits and b. -/
theorem bitsOf_block (hfull : s.wrCur + 1 = s.bufBits) (b : Bool) :
    bitsOf ((s.stored b).bufBytes s.params.blockBytes) = s.pending ++ [b] := by
  rw [← pending_stored (by omega) b, bitsOf_bufBytes, ← s.bufBits_eq, ← hfull]
  rfl

/-- A bit whose block the sink accepts goes to the sink with it. -/
theorem writeBit_sent (hfull : s.wrCur + 1 = s.bufBits) (hsink : s.SinkAccepts 1) (b : Bool) :
    ∃ t, s.writeBit b = .done t ∧ s.Appended [b] t := by
  have hsent : s.bytesSent 1 = s.params.blockBytes := by
    rw [State.bytesSent, hfull, Nat.div_self s.bufBits_pos, Nat.one_mul]
  have hlen := length_bufBytes (s.stored b) s.params.blockBytes
  have hwrite := sinkWrite_accepted (s := s.stored b) (bs := (s.stored b).bufBytes s.params.blockBytes)
    fun e he => hsink e (by rw [hsent]; rwa [hlen] at he)
  rw [hlen] at hwrite
  refine ⟨_, (writeBit_full hfull hwrite).trans (if_neg (Nat.lt_irrefl _)), ?frame, ?written,
    fun _ => bufBit_stored_of_ne (by omega) b⟩
  case frame => simp [hsent, hfull, State.stored, State.setBufBit]
  case written =>
    change bitsOf (s.sink ++ (s.stored b).bufBytes s.params.blockBytes) ++ [] = _
    rw [bitsOf_append, bitsOf_block hfull, List.append_nil, State.written, List.append_assoc]

theorem writeBit_appended (hcur : s.wrCur < s.bufBits) (hsink : s.SinkAccepts 1) (b : Bool) :
    ∃ t, s.writeBit b = .done t ∧ s.Appended [b] t := by
  by_cases hfull : s.wrCur + 1 = s.bufBits
  · exact writeBit_sent hfull hsink b
  · exact writeBit_stored hcur hfull b

/-- The writer appends the bits it is given, bit by bit, over any number of blocks. -/
theorem writeBits_appended (hcur : s.wrCur < s.bufBits) (hsink : s.SinkAccepts l.length) :
    ∃ t, s.writeBits l = .done t ∧ s.Appended l t := by
  induction l generalizing s with
  | nil => exact ⟨s, rfl, .refl hcur⟩
  | cons b l ih =>
    rw [List.length_cons, Nat.add_comm] at hsink
    obtain ⟨t, hbit, ht⟩ := writeBit_appended hcur (hsink.of_le (Nat.le_add_right _ _)) b
    have hcur' : t.wrCur < t.bufBits := by
      rw [ht.wrCur, ht.bufBits]
      exact Nat.mod_lt _ s.bufBits_pos
    obtain ⟨u, hrest, hu⟩ := ih hcur' (ht.sinkAccepts hsink)
    exact ⟨u, by simp only [State.writeBits, hbit, hrest], ht.trans hu⟩

theorem writeThenRespond_appended {c : BitCode} (hcur : s.wrCur < s.bufBits) (hsink : s.SinkAccepts c.len) :
    ∃ t, s.writeThenRespond c = .next (t.respond .ok (value c.len)) ∧ s.Appended c.toList t := by
  rw [← length_toList c] at hsink
  obtain ⟨t, hdone, happended⟩ := writeBits_appended hcur hsink
  exact ⟨t, by rw [State.writeThenRespond, hdone], happended⟩

end

/-- Settles O56: both commands write their code's bits with the same writer. -/
theorem writersAppendTheirCode : Obligations.WritersAppendTheirCode := by
  unfold Obligations.WritersAppendTheirCode
  intro s he Appends
  have happends : ∀ c, s.wrCur < s.bufBits → Appends (s.writeThenRespond c) c := by
    intro c hcur hsink
    obtain ⟨t, hr, ht⟩ := writeThenRespond_appended hcur hsink
    have hframe := ht.frame
    rw [length_toList] at hframe
    refine ⟨t.buf, t.sink, ?_⟩
    dsimp only
    rw [hframe] at hr ht
    refine ⟨hr, ht.written, fun j hj => ht.kept j ?_⟩
    rwa [length_toList]
  refine ⟨fun x hx => ?_, fun hcur => ⟨?_, fun x hx => ?_⟩⟩
  · change s.unlessHalted _ = _
    rw [unlessHalted_running he, hx, value, BitVec.ofNat_toNat]
    rfl
  · change Appends (s.unlessHalted _) _
    rw [unlessHalted_running he]
    exact happends _ hcur
  · change Appends (s.unlessHalted _) _
    rw [unlessHalted_running he, hx]
    exact happends _ hcur

end Sys2Proof.Machine
end

section
/-! SUPPORT. Decoding and encoding through one table (spec/30_encoding.md R131 to R138): each opcode's format says how the decoder
reads a command, which bits the opcode table fixes, and how the encoder writes the instruction back. -/

namespace Sys2Proof

/-! ## The fields of a command -/

theorem append_extractLsb' {n k : Nat} (x : BitVec (n + k)) : x.extractLsb' k n ++ x.extractLsb' 0 k = x :=
  (BitVec.extractLsb'_append_extractLsb'_eq_extractLsb' (Nat.zero_add k).symm).trans BitVec.extractLsb'_eq_self

/-- A command is its four fields: they leave no bit of it out (R131). -/
theorem Command.make_fields (c : Command) : Command.make c.op c.a c.b c.d = c := by
  have hlow : c.a ++ c.op = c.cmd.extractLsb' 0 16 := BitVec.extractLsb'_append_extractLsb'_eq_extractLsb' rfl
  have hcmd : c.b ++ (c.a ++ c.op) = c.cmd := by
    rw [hlow]
    exact append_extractLsb' (n := 16) (k := 16) c.cmd
  rw [Command.make, BitVec.append_assoc]
  exact congrArg (Command.mk · c.d) hcmd

section
variable {c : Command} {op a : BitVec 8} {b : BitVec 16} {d : BitVec 64}

theorem Command.make_eq (hop : c.op = op) (ha : c.a = a) (hb : c.b = b) (hd : c.d = d) : Command.make op a b d = c := by
  subst hop ha hb hd
  exact c.make_fields

/-- Masking CMD masks its fields one by one. -/
theorem Command.cmd_and_make (c : Command) (op a : BitVec 8) (b : BitVec 16) (d : BitVec 64) :
    c.cmd &&& (Command.make op a b d).cmd = (Command.make (c.op &&& op) (c.a &&& a) (c.b &&& b) d).cmd := by
  conv_lhs => rw [← c.make_fields]
  exact BitVec.and_append.trans (congrArg (· ++ _) BitVec.and_append)

theorem Command.make_cmd_eq_iff {op' a' : BitVec 8} {b' : BitVec 16} {d' : BitVec 64} :
    (Command.make op a b d).cmd = (Command.make op' a' b' d').cmd ↔ op = op' ∧ a = a' ∧ b = b' := by
  constructor
  · intro h
    have h : Command.make op a b 0 = Command.make op' a' b' 0 := congrArg (Command.mk · 0) h
    exact ⟨by simpa using congrArg Command.op h, by simpa using congrArg Command.a h, by simpa using congrArg Command.b h⟩
  · rintro ⟨rfl, rfl, rfl⟩
    rfl

end

/-! ## The formats -/

/-- A format of R132 with the instructions it stands for: one constructor for each way the decoder reads a command. -/
inductive InstrFormat where
  | n (i : Instr)
  | a (f : BitVec 8 → Instr)
  | b (f : BitVec 16 → Instr)
  | ab (f : BitVec 8 → BitVec 16 → Instr)
  | ad (f : BitVec 8 → BitVec 64 → Instr)
  | bd (f : BitVec 16 → BitVec 64 → Instr)
  | bit (f : Bool → Instr)
  | pair (f : BitVec 16 → BitVec 16 → Instr)

namespace InstrFormat

/-- How the decoder reads a command of the format. -/
def read : InstrFormat → Command → Decoded
  | n i, c => formatN c i
  | a f, c => formatA c f
  | b f, c => formatB c f
  | ab f, c => formatAB c f
  | ad f, c => formatAD c f
  | bd f, c => formatBD c f
  | bit f, c => formatBit c f
  | pair f, c => formatPair c f

/-- The bits that a row of the opcode table fixes, as a command that has just these set: the opcode and the reserved fields. -/
def fixed : InstrFormat → Command
  | n _ => Command.make (.allOnes 8) (.allOnes 8) (.allOnes 16) (.allOnes 64)
  | a _ => Command.make (.allOnes 8) 0 (.allOnes 16) (.allOnes 64)
  | b _ => Command.make (.allOnes 8) (.allOnes 8) 0 (.allOnes 64)
  | ab _ => Command.make (.allOnes 8) 0 0 (.allOnes 64)
  | ad _ => Command.make (.allOnes 8) 0 (.allOnes 16) 0
  | bd _ => Command.make (.allOnes 8) (.allOnes 8) 0 0
  | bit _ => Command.make (.allOnes 8) (BitVec.allOnes 7 ++ 0#1) (.allOnes 16) (.allOnes 64)
  | pair _ => Command.make (.allOnes 8) (.allOnes 8) 0 (BitVec.allOnes 48 ++ 0#16)

/-- The row of the opcode table for an opcode of the format. -/
def row (f : InstrFormat) (op : BitVec 8) : OpcodeRow := ⟨(Command.make op 0 0 0).cmd, f.fixed.cmd, f.fixed.d⟩

/-- The encoder writes the format's instructions with the opcode op, operands in their fields and 0 in the reserved ones. -/
def Writes (op : BitVec 8) : InstrFormat → Prop
  | n i => encode i = Command.make op 0 0 0
  | a f => ∀ x, encode (f x) = Command.make op x 0 0
  | b f => ∀ n, encode (f n) = Command.make op 0 n 0
  | ab f => ∀ x n, encode (f x n) = Command.make op x n 0
  | ad f => ∀ x v, encode (f x v) = Command.make op x 0 v
  | bd f => ∀ n v, encode (f n v) = Command.make op 0 n v
  | bit f => ∀ y, encode (f y) = Command.make op (if y then 1 else 0) 0 0
  | pair f => ∀ l r, encode (f l r) = Command.make op 0 l (r.setWidth 64)

end InstrFormat

/-- The opcode map (R134) with the format of each opcode. -/
def opcodeMap : List (Σ _ : BitVec 8, InstrFormat) := [
  ⟨0x00, .n .nop⟩, ⟨0x01, .n .reset⟩, ⟨0x02, .b .regRead⟩, ⟨0x03, .bd .regWrite⟩,
  ⟨0x10, .n .bcClear⟩, ⟨0x11, .bit .bcPush⟩, ⟨0x12, .n .bcPop⟩, ⟨0x13, .n .bcSize⟩, ⟨0x14, .n .bcIsEmpty⟩,
  ⟨0x15, .n .bcIsFull⟩, ⟨0x16, .n .bcRender⟩,
  ⟨0x20, .n .pqClear⟩, ⟨0x21, .b .pqEnq⟩, ⟨0x22, .n .pqDeq⟩, ⟨0x23, .n .pqSize⟩, ⟨0x24, .n .pqIsEmpty⟩, ⟨0x25, .n .pqIsFull⟩,
  ⟨0x30, .b .nsInit⟩, ⟨0x31, .b .nsPush⟩, ⟨0x32, .n .nsPop⟩, ⟨0x33, .n .nsSize⟩,
  ⟨0x40, .ad .nodeLeaf⟩, ⟨0x41, .pair .nodeJoin⟩, ⟨0x42, .ab .nodeRead⟩, ⟨0x43, .b .release⟩,
  ⟨0x50, .n .histClear⟩, ⟨0x51, .ad .histSet⟩, ⟨0x52, .ad .histAdd⟩, ⟨0x53, .a .histGet⟩,
  ⟨0x60, .n .build⟩, ⟨0x61, .n .codeTable⟩, ⟨0x62, .n .serialize⟩, ⟨0x63, .n .deserialize⟩, ⟨0x64, .a .ctLen⟩,
  ⟨0x65, .ab .ctBit⟩, ⟨0x66, .a .ctLoadBc⟩,
  ⟨0x70, .n .bsReset⟩, ⟨0x71, .b .setBit⟩, ⟨0x72, .b .clrBit⟩, ⟨0x73, .b .getBit⟩, ⟨0x74, .n .readBit⟩, ⟨0x75, .a .writeCode⟩,
  ⟨0x76, .n .writeBc⟩, ⟨0x77, .n .flush⟩, ⟨0x78, .n .decSym⟩, ⟨0x79, .n .decodeAll⟩,
  ⟨0x80, .n .hdrWrite⟩, ⟨0x81, .n .hdrRead⟩]

theorem opcodeMap_nodupKeys : opcodeMap.NodupKeys := by
  unfold List.NodupKeys
  decide +kernel

/-- The decoder reads a command in the format of its opcode. -/
theorem decode_eq_read (c : Command) : decode c = (opcodeMap.dlookup c.op).elim .illegalOpcode (·.read c) := by
  unfold decode
  split
  case h_49 =>
    rw [List.dlookup_eq_none.2]
    · rfl
    · simp_all [opcodeMap, List.keys]
  all_goals
    rename_i hop
    rw [hop]
    rfl

/-- The written-out rows of the opcode table are those of the formats. -/
theorem opcodeRow_all_eq : OpcodeRow.all = opcodeMap.map fun p => p.2.row p.1 := rfl

/-- The encoder writes each opcode's instructions in its format. -/
theorem opcodeMap_writes : ∀ p ∈ opcodeMap, p.2.Writes p.1 := by
  intro p hp
  fin_cases hp
  all_goals
    dsimp only [InstrFormat.Writes]
    intros
    rfl

/-- A command decodes to an instruction exactly where the format of its opcode reads it so. -/
theorem decode_eq_instr_iff {c : Command} {i : Instr} :
    decode c = .instr i ↔ ∃ f, ⟨c.op, f⟩ ∈ opcodeMap ∧ f.read c = .instr i := by
  simp only [decode_eq_read, ← List.mem_dlookup_iff opcodeMap_nodupKeys, Option.mem_def]
  cases opcodeMap.dlookup c.op with
  | none => simp
  | some f => simp

/-! ## From a command to an instruction and back -/

theorem Decoded.ite_eq_instr_iff {p : Prop} [Decidable p] {i j : Instr} :
    (if p then Decoded.instr j else .reservedField) = .instr i ↔ p ∧ j = i := by
  split <;> simp [*]

/-- BC_PUSH: where A[7:1] is 0, A is its bit 0. -/
theorem bitField_eq : ∀ {a : BitVec 8}, a.extractLsb' 1 7 = 0 → (if a.getLsbD 0 then 1 else 0) = a := by
  decide

/-- The second operand of NODE_JOIN stands in D under 48 zero bits. -/
theorem zero_append_low (r : BitVec 16) : 0#48 ++ r = r.setWidth 64 := by
  rw [BitVec.setWidth_eq_append (by decide)]
  rfl

/-- NODE_JOIN: where D[63:16] is 0, D is its 16 low bits. -/
theorem lowField_eq {d : BitVec 64} (h : d.extractLsb' 16 48 = 0) : (d.extractLsb' 0 16).setWidth 64 = d := by
  have hsplit : d.extractLsb' 16 48 ++ d.extractLsb' 0 16 = d := append_extractLsb' (n := 48) (k := 16) d
  rw [h] at hsplit
  exact (zero_append_low _).symm.trans hsplit

namespace InstrFormat
variable {f : InstrFormat} {c : Command} {i : Instr}

/-- What the decoder reads in a format, the encoder writes back: the reserved fields it checked are the ones written as 0. -/
theorem encode_of_read (hw : f.Writes c.op) (h : f.read c = .instr i) : encode i = c := by
  cases f with
  | n j =>
    obtain ⟨⟨ha, hb, hd⟩, rfl⟩ := Decoded.ite_eq_instr_iff.1 h
    exact hw.trans (Command.make_eq rfl ha hb hd)
  | a f =>
    obtain ⟨⟨hb, hd⟩, rfl⟩ := Decoded.ite_eq_instr_iff.1 h
    exact (hw c.a).trans (Command.make_eq rfl rfl hb hd)
  | b f =>
    obtain ⟨⟨ha, hd⟩, rfl⟩ := Decoded.ite_eq_instr_iff.1 h
    exact (hw c.b).trans (Command.make_eq rfl ha rfl hd)
  | ab f =>
    obtain ⟨hd, rfl⟩ := Decoded.ite_eq_instr_iff.1 h
    exact (hw c.a c.b).trans (Command.make_eq rfl rfl rfl hd)
  | ad f =>
    obtain ⟨hb, rfl⟩ := Decoded.ite_eq_instr_iff.1 h
    exact (hw c.a c.d).trans (Command.make_eq rfl rfl hb rfl)
  | bd f =>
    obtain ⟨ha, rfl⟩ := Decoded.ite_eq_instr_iff.1 h
    exact (hw c.b c.d).trans (Command.make_eq rfl ha rfl rfl)
  | bit f =>
    obtain ⟨⟨ha, hb, hd⟩, rfl⟩ := Decoded.ite_eq_instr_iff.1 h
    exact (hw _).trans (Command.make_eq rfl (bitField_eq ha).symm hb hd)
  | pair f =>
    obtain ⟨⟨ha, hd⟩, rfl⟩ := Decoded.ite_eq_instr_iff.1 h
    exact (hw c.b _).trans (Command.make_eq rfl ha rfl (lowField_eq hd).symm)

end InstrFormat

/-- Settles O3: the format that reads a command also writes it. -/
theorem encodeOfDecodeIsTheCommand : Obligations.EncodeOfDecodeIsTheCommand := by
  unfold Obligations.EncodeOfDecodeIsTheCommand
  intro c i h
  obtain ⟨f, hf, hread⟩ := decode_eq_instr_iff.1 h
  exact f.encode_of_read (opcodeMap_writes _ hf) hread

/-! ## What the encoder writes decodes -/

section
variable {op : BitVec 8}

/-- A command made with an opcode of the map is read in that opcode's format. -/
theorem decode_make {f : InstrFormat} (h : opcodeMap.dlookup op = some f) (a : BitVec 8) (b : BitVec 16) (d : BitVec 64) :
    decode (Command.make op a b d) = f.read (Command.make op a b d) := by
  rw [decode_eq_read, Command.make_op, h]
  rfl

theorem decode_make_n {i : Instr} (h : opcodeMap.dlookup op = some (.n i)) : decode (Command.make op 0 0 0) = .instr i := by
  simp [decode_make h, InstrFormat.read, formatN]

theorem decode_make_a {f : BitVec 8 → Instr} (h : opcodeMap.dlookup op = some (.a f)) (x : BitVec 8) :
    decode (Command.make op x 0 0) = .instr (f x) := by
  simp [decode_make h, InstrFormat.read, formatA]

theorem decode_make_b {f : BitVec 16 → Instr} (h : opcodeMap.dlookup op = some (.b f)) (n : BitVec 16) :
    decode (Command.make op 0 n 0) = .instr (f n) := by
  simp [decode_make h, InstrFormat.read, formatB]

theorem decode_make_ab {f : BitVec 8 → BitVec 16 → Instr} (h : opcodeMap.dlookup op = some (.ab f)) (x : BitVec 8)
    (n : BitVec 16) : decode (Command.make op x n 0) = .instr (f x n) := by
  simp [decode_make h, InstrFormat.read, formatAB]

theorem decode_make_ad {f : BitVec 8 → BitVec 64 → Instr} (h : opcodeMap.dlookup op = some (.ad f)) (x : BitVec 8)
    (v : BitVec 64) : decode (Command.make op x 0 v) = .instr (f x v) := by
  simp [decode_make h, InstrFormat.read, formatAD]

theorem decode_make_bd {f : BitVec 16 → BitVec 64 → Instr} (h : opcodeMap.dlookup op = some (.bd f)) (n : BitVec 16)
    (v : BitVec 64) : decode (Command.make op 0 n v) = .instr (f n v) := by
  simp [decode_make h, InstrFormat.read, formatBD]

theorem decode_make_bit {f : Bool → Instr} (h : opcodeMap.dlookup op = some (.bit f)) (y : Bool) :
    decode (Command.make op (if y then 1 else 0) 0 0) = .instr (f y) := by
  cases y <;> simp [decode_make h, InstrFormat.read, formatBit]

theorem decode_make_pair {f : BitVec 16 → BitVec 16 → Instr} (h : opcodeMap.dlookup op = some (.pair f)) (l r : BitVec 16) :
    decode (Command.make op 0 l (r.setWidth 64)) = .instr (f l r) := by
  have hhigh : (0#48 ++ r).extractLsb' 16 48 = 0#48 := BitVec.extractLsb'_append_eq_left
  have hlow : (0#48 ++ r).extractLsb' 0 16 = r := BitVec.extractLsb'_append_eq_right
  simp [decode_make h, InstrFormat.read, formatPair, ← zero_append_low, hhigh, hlow]

end

/-- Settles O2, format by format (R132). -/
theorem decodeOfEncodeIsTheInstruction : Obligations.DecodeOfEncodeIsTheInstruction := by
  unfold Obligations.DecodeOfEncodeIsTheInstruction
  intro i
  cases i with
  | nop | reset | bcClear | bcPop | bcSize | bcIsEmpty | bcIsFull | bcRender | pqClear | pqDeq | pqSize | pqIsEmpty | pqIsFull
  | nsPop | nsSize | histClear | build | codeTable | serialize | deserialize | bsReset | readBit | writeBc | flush | decSym
  | decodeAll | hdrWrite | hdrRead =>
    exact decode_make_n rfl
  | histGet x | ctLen x | ctLoadBc x | writeCode x => exact decode_make_a rfl ..
  | regRead n | pqEnq n | nsInit n | nsPush n | release n | setBit n | clrBit n | getBit n =>
    exact decode_make_b rfl ..
  | nodeRead x n | ctBit x n => exact decode_make_ab rfl ..
  | nodeLeaf x v | histSet x v | histAdd x v => exact decode_make_ad rfl ..
  | regWrite n v => exact decode_make_bd rfl ..
  | bcPush y => exact decode_make_bit rfl ..
  | nodeJoin l r => exact decode_make_pair rfl ..

/-- Settles O1: each word is the encoding of its command. -/
theorem wordsOfEveryUnitDecode : Obligations.WordsOfEveryUnitDecode := by
  unfold Obligations.WordsOfEveryUnitDecode
  have h := decodeOfEncodeIsTheInstruction
  exact ⟨h (.regWrite 0x06 4), h (.bcPush true), h (.pqEnq 5), h (.nsInit 5), h (.nodeJoin 1 2), h (.histSet 0x61 3),
    h (.ctBit 0x62 2), h (.setBit 3), h .hdrRead⟩

/-! ## The opcode table -/

/-- The bits from k on are 0 exactly where masking them gives 0. -/
theorem extractLsb'_eq_zero_iff {n k : Nat} (x : BitVec (n + k)) :
    x.extractLsb' k n = 0#n ↔ x &&& (BitVec.allOnes n ++ 0#k) = 0 := by
  have hmask : x &&& (BitVec.allOnes n ++ 0#k) = x.extractLsb' k n ++ 0#k := by
    conv_lhs => rw [← append_extractLsb' x]
    rw [BitVec.and_append, BitVec.and_allOnes, BitVec.and_zero]
  have hzero : (0 : BitVec (n + k)) = 0#n ++ 0#k := by simp
  rw [hmask, hzero, BitVec.append_left_inj]

theorem Decoded.exists_ite_eq_instr_iff {p : Prop} [Decidable p] {j : Instr} :
    (∃ i, (if p then Decoded.instr j else .reservedField) = .instr i) ↔ p := by
  simp [Decoded.ite_eq_instr_iff]

namespace InstrFormat
variable {f : InstrFormat} {c : Command} {op : BitVec 8}

/-- A command reads in a format exactly where every reserved bit is 0. -/
theorem exists_read_iff :
    (∃ i, f.read c = .instr i) ↔ c.a &&& f.fixed.a = 0 ∧ c.b &&& f.fixed.b = 0 ∧ c.d &&& f.fixed.d = 0 := by
  cases f with
  | n | a | b | ab | ad | bd => exact Decoded.exists_ite_eq_instr_iff.trans (by simp [fixed, -BitVec.reduceAllOnes])
  | bit f =>
    have ha : c.a.extractLsb' 1 7 = 0#7 ↔ c.a &&& (BitVec.allOnes 7 ++ 0#1) = 0#8 :=
      extractLsb'_eq_zero_iff (n := 7) (k := 1) _
    exact Decoded.exists_ite_eq_instr_iff.trans (by simp [fixed, ha, -BitVec.reduceAllOnes, -BitVec.reduceAppend])
  | pair f =>
    have hd : c.d.extractLsb' 16 48 = 0#48 ↔ c.d &&& (BitVec.allOnes 48 ++ 0#16) = 0#64 :=
      extractLsb'_eq_zero_iff (n := 48) (k := 16) _
    exact Decoded.exists_ite_eq_instr_iff.trans (by simp [fixed, hd, -BitVec.reduceAllOnes, -BitVec.reduceAppend])

/-- The row of a format accepts the commands that carry its opcode and read in it. -/
theorem row_accepts_iff : (f.row op).accepts c = true ↔ c.op = op ∧ ∃ i, f.read c = .instr i := by
  have hop : f.fixed.op = .allOnes 8 := by cases f <;> exact Command.make_op ..
  have hmask : c.cmd &&& f.fixed.cmd = (Command.make op 0 0 0).cmd ↔
      c.op = op ∧ c.a &&& f.fixed.a = 0 ∧ c.b &&& f.fixed.b = 0 := by
    rw [← f.fixed.make_fields, Command.cmd_and_make, Command.make_cmd_eq_iff, hop, BitVec.and_allOnes]
    simp
  rw [OpcodeRow.accepts, row, Bool.and_eq_true, beq_iff_eq, beq_iff_eq, hmask, exists_read_iff, and_assoc, and_assoc]

end InstrFormat

/-- A command is well-formed exactly where it decodes: the decoder and the opcode table check the same bits. -/
theorem wellFormed_iff {c : Command} : c.wellFormed = true ↔ ∃ i, decode c = .instr i := by
  simp only [Command.wellFormed, opcodeRow_all_eq, List.any_map, List.any_eq_true, Function.comp, InstrFormat.row_accepts_iff,
    decode_eq_instr_iff]
  constructor
  · rintro ⟨⟨op, f⟩, hf, rfl, i, hread⟩
    exact ⟨i, f, hf, hread⟩
  · rintro ⟨i, f, hf, hread⟩
    exact ⟨⟨c.op, f⟩, hf, rfl, i, hread⟩

/-- Settles O4, row by row: the rows are the formats', and each accepts what its format reads. -/
theorem decoderAcceptsExactlyTheOpcodeTable : Obligations.DecoderAcceptsExactlyTheOpcodeTable := by
  unfold Obligations.DecoderAcceptsExactlyTheOpcodeTable
  exact fun c => wellFormed_iff

/-- No opcode of the table is one of the ranges of R137. -/
theorem not_undefinedOpcode_of_mem : ∀ p ∈ opcodeMap, Machine.undefinedOpcode p.1.toNat = false := by
  decide +kernel

theorem wellFormed_of_undefinedOpcode {c : Command} (h : Machine.undefinedOpcode c.op.toNat = true) :
    c.wellFormed = false := by
  rw [Bool.eq_false_iff, ne_eq, wellFormed_iff]
  rintro ⟨i, hi⟩
  obtain ⟨f, hf, -⟩ := decode_eq_instr_iff.1 hi
  exact Bool.false_ne_true ((not_undefinedOpcode_of_mem _ hf).symm.trans h)

/-! ## Refused commands -/

namespace Machine

theorem refuseCommand_running {s : State} (he : s.err = false) (c : Command) :
    s.refuseCommand c = s.raise .eIllegal (c.cmd.setWidth 64) := by
  rw [State.refuseCommand, he]
  rfl

/-- A command that does not decode is refused, whichever check it fails (R136). -/
theorem perform_illFormed {s : State} {c : Command} (h : c.wellFormed = false) :
    s.perform c = .next (s.refuseCommand c) := by
  rw [Bool.eq_false_iff, ne_eq, wellFormed_iff] at h
  unfold State.perform
  split
  case h_1 i hi => exact absurd ⟨i, hi⟩ h
  all_goals rfl

/-- Settles O6: the command is refused, and outside the error halt that is an error taken with the command word. -/
theorem reservedFieldsRaiseIllegal : Obligations.ReservedFieldsRaiseIllegal := by
  unfold Obligations.ReservedFieldsRaiseIllegal
  intro s c rest hport he h
  have hs : ({ s with port := rest } : State).err = false := he
  simp only [step, hport, perform_illFormed h, refuseCommand_running hs]
  rfl

/-- Settles O5: an undefined opcode fits no row of the table. -/
theorem undefinedOpcodesRaiseIllegal : Obligations.UndefinedOpcodesRaiseIllegal := by
  unfold Obligations.UndefinedOpcodesRaiseIllegal
  refine ⟨by decide +kernel, fun s c rest hport he h => ?_⟩
  exact reservedFieldsRaiseIllegal s c rest hport he (wellFormed_of_undefinedOpcode h)

end Machine

end Sys2Proof

end

section
/-! SUPPORT. The control commands and the commands that only answer (spec/40_control.md): the register table read two ways
(spec/10_state.md R33), REG_WRITE's writable registers, and what reset leaves (spec/70_reset_and_hazards.md R381, R383). -/

namespace Sys2Proof.Machine

/-! ## The register table -/

/-- The registers in the order of their numbers (10_state.md R33). -/
def registers : List Reg :=
  [.id, .status, .result, .magic, .hdrPerms, .hdrTsize, .hdrFsize, .root, .wrCur, .rdCur, .rdEnd, .nodesUsed, .nsCap,
   .paramBlock, .paramNodeCap, .paramPqN, .paramNsMax]

/-- A register number indexes the table. -/
theorem regOf?_eq (r : BitVec 16) : regOf? r = registers[r.toNat]? := by
  unfold regOf?
  split
  case h_18 =>
    have hlen : registers.length ≤ r.toNat := by change 17 ≤ r.toNat; grind
    exact (List.getElem?_eq_none hlen).symm
  all_goals rename_i hr; rw [hr]; rfl

/-- A register has one number, its place in the table. -/
theorem toNat_of_regOf? {r : BitVec 16} {g : Reg} (h : regOf? r = some g) : r.toNat = registers.idxOf g := by
  rw [regOf?_eq] at h
  obtain ⟨hlt, rfl⟩ := List.getElem?_eq_some_iff.1 h
  exact (List.Nodup.idxOf_getElem (by decide) _ hlt).symm

theorem setWidth_eq_value {n : Nat} (x : BitVec n) : x.setWidth 64 = value x.toNat := (BitVec.ofNat_toNat 64 x).symm

/-- STATUS is CODE with ERR added as bit 8 (R34). -/
theorem statusWord_eq (s : State) : s.statusWord = value (s.code.num.toNat + if s.err then 2 ^ 8 else 0) := by
  unfold State.statusWord
  cases s.err with
  | false => cases s.code <;> rfl
  | true => cases s.code <;> rfl

/-- The slots that are not free are the live ones. -/
theorem nodesUsed_eq (s : State) : nodeCap - s.freeSlots = s.arena.toList.countP (·.valid) := by
  have h := List.length_eq_countP_add_countP (fun nd : Node => nd.valid) (l := s.arena.toList)
  have hlen : s.arena.toList.length = nodeCap := by simp
  simp only [Bool.not_eq_true, Bool.decide_eq_false] at h
  unfold State.freeSlots
  omega

/-- The table of contents gives each register its value. -/
theorem registerValues_eq (s : State) : s.registerValues = registers.map s.regValue := by
  simp only [registers, List.map_cons, List.map_nil, State.regValue, statusWord_eq, nodesUsed_eq, setWidth_eq_value]
  rfl

theorem registerValues_getElem? (s : State) (r : BitVec 16) :
    s.registerValues[r.toNat]? = (regOf? r).map s.regValue := by
  rw [registerValues_eq, List.getElem?_map, regOf?_eq]

/-- Settles O25: the number names a register exactly where the table of contents has an entry, and the entry is its value. -/
theorem regReadAnswersTheRegister : Obligations.RegReadAnswersTheRegister := by
  unfold Obligations.RegReadAnswersTheRegister
  intro s r
  change execRegRead r s = _
  rw [registerValues_getElem?, execRegRead]
  cases regOf? r with
  | none => rfl
  | some g => rfl

/-! ## REG_WRITE -/

section
variable {s : State} (he : s.err = false)
include he

/-- A number outside 0x04 to 0x07 names no writable register. -/
theorem regWrite_unwritable {r : BitVec 16} (h : r.toNat < 0x04 ∨ 0x07 < r.toNat) (v : Value) :
    exec (.regWrite r v) s = .next (s.raise .eOperand (value r.toNat)) := by
  have hout : ∀ g, regOf? r = some g → registers.idxOf g < 0x04 ∨ 0x07 < registers.idxOf g := fun g hg =>
    toNat_of_regOf? hg ▸ h
  change s.unlessHalted _ = _
  rw [unlessHalted_running he, setWidth_eq_value]
  split
  case h_1 hr | h_2 hr | h_3 hr | h_4 hr => exact absurd (hout _ hr) (by decide)
  case h_5 => rfl

theorem regWrite_hdrPerms (v : Value) : exec (.regWrite 0x04 v) s = .next (
    if 0xFFFF < v.toNat then s.raise .eOperand v else { s with hdrPerms := v.setWidth 16 }.respond .ok 0) :=
  unlessHalted_running he _

theorem regWrite_hdrTsize (v : Value) : exec (.regWrite 0x05 v) s = .next (
    if 0xFFFF < v.toNat then s.raise .eOperand v else { s with hdrTsize := v.setWidth 16 }.respond .ok 0) :=
  unlessHalted_running he _

theorem regWrite_hdrFsize (v : Value) :
    exec (.regWrite 0x06 v) s = .next ({ s with hdrFsize := v }.respond .ok 0) :=
  unlessHalted_running he _

theorem regWrite_root (v : Value) : exec (.regWrite 0x07 v) s = .next (
    if ¬(v = 0xFFFF ∨ v.toNat < 511) then s.raise .eOperand v
    else { s with root := v.setWidth 16 }.respond .ok 0) := by
  have hnull : v = 0xFFFF ↔ v.toNat = 0xFFFF := by bv_omega
  rw [ite_not]
  simp only [hnull]
  exact unlessHalted_running he _

end

/-- Settles O26: the four writable registers one by one, and every other number. -/
theorem regWriteStoresLegalValues : Obligations.RegWriteStoresLegalValues := by
  unfold Obligations.RegWriteStoresLegalValues
  intro s r v he
  by_cases hout : r.toNat < 0x04 ∨ 0x07 < r.toNat
  · rw [if_pos hout, regWrite_unwritable he hout]
  · rw [if_neg hout]
    have hr : r = 0x04 ∨ r = 0x05 ∨ r = 0x06 ∨ r = 0x07 := by bv_omega
    rcases hr with rfl | rfl | rfl | rfl
    · rw [regWrite_hdrPerms he]; simp
    · rw [regWrite_hdrTsize he]; simp
    · rw [regWrite_hdrFsize he]; simp
    · rw [regWrite_root he]; simp

/-! ## Reset -/

theorem valid_resetBlock (s : State) (n : NodeIx) : s.resetBlock.valid n = false := by
  rw [State.valid, State.slot?]
  split
  · simp [State.resetBlock, State.reset, Node.free]
  · rfl

theorem histAt_resetBlock (s : State) (x : Sym) : s.resetBlock.histAt x = 0 := by
  simp [State.histAt, State.resetBlock, State.reset]

theorem ctAt_resetBlock (s : State) (x : Sym) : s.resetBlock.ctAt x = ⟨false, BitCode.empty⟩ := by
  simp [State.ctAt, State.resetBlock, State.reset]

/-- Reset gives every item its reset value (R381). -/
theorem resetItems_resetBlock (s : State) : s.resetBlock.ResetItems :=
  ⟨rfl, rfl, rfl, rfl, rfl, rfl, rfl, histAt_resetBlock s, valid_resetBlock s, rfl, rfl, rfl, rfl, rfl,
    fun x => by rw [ctAt_resetBlock], rfl, rfl, rfl⟩

/-- Reset touches neither the parameters nor the channels (R383). -/
theorem sameEnvironment_resetBlock (s : State) : s.SameEnvironment s.resetBlock := ⟨rfl, rfl, rfl, rfl, rfl, rfl⟩

/-- Settles O9: RESET answers on the state reset leaves, and its answer (OK, 0) is what STATUS and RESULT are reset to. -/
theorem resetRestoresEveryItem : Obligations.ResetRestoresEveryItem := by
  unfold Obligations.ResetRestoresEveryItem
  exact fun s => ⟨s.resetBlock.respond .ok 0, rfl, resetItems_resetBlock s, sameEnvironment_resetBlock s, rfl⟩

/-! ## Commands that answer a value -/

/-- Outside the error halt a command that only answers answers its value. -/
theorem respond_running {s : State} {v w : Value} (he : s.err = false) (h : v = w) :
    s.unlessHalted (.next (s.respond .ok v)) = .next (s.respond .ok w) := by
  rw [unlessHalted_running he, h]

theorem boolValue_beq {α : Type} [DecidableEq α] (a b : α) : boolValue (a == b) = if a = b then 1 else 0 := by
  simp [boolValue]

/-- The queue's size from its two ends (42_pqueue.md R200). -/
theorem pqSize_eq (s : State) : s.pqSize = (s.pqTail.val + 257 - s.pqHead.val) % 257 := by
  have hsub : s.pqSize = (257 - s.pqHead.val + s.pqTail.val) % 257 := rfl
  omega

/-- Settles O27: each of the ten commands is one answer. -/
theorem answeringCommandsAnswerTheirValue : Obligations.AnsweringCommandsAnswerTheirValue := by
  unfold Obligations.AnsweringCommandsAnswerTheirValue
  intro s he size
  have hsize : s.pqSize = size := pqSize_eq s
  refine ⟨?nop, ?bcSize, ?bcIsEmpty, ?bcIsFull, ?pqSize, ?pqIsEmpty, ?pqIsFull, ?nsSize, fun x => ⟨?histGet, ?ctLen⟩⟩
  case nop | bcSize | nsSize | histGet => exact respond_running he rfl
  case bcIsEmpty | bcIsFull | pqIsEmpty => exact respond_running he (boolValue_beq _ _)
  case pqSize => exact respond_running he (congrArg value hsize)
  case pqIsFull => exact respond_running he (hsize ▸ boolValue_beq _ _)
  case ctLen => exact respond_running he (apply_ite value _ _ _).symm

end Sys2Proof.Machine
end

section
/-! SUPPORT. The BitCode unit's push and pop as its list of bits sees them (spec/41_bitcode.md R180, R181), and the commands that
clear counters or entries (R182, R204, R248, R312). -/

namespace Sys2Proof.Machine

/-! ## Push and pop -/

/-- One more bit in the code is one more bit at the end of its list (00_scope.md R13). -/
theorem toList_succ (x : BitVec 256) (n : Nat) :
    (⟨x, n + 1⟩ : BitCode).toList = (⟨x, n⟩ : BitCode).toList ++ [x.getLsbD n] := by
  simp [BitCode.toList, List.range_succ]

/-- A bit at or above LEN is not in the list, so writing it leaves the list as it was. -/
theorem toList_putBit_len {x : BitVec 256} {n : Nat} (b : Bool) (hn : n < 256) :
    (⟨putBit x n b, n⟩ : BitCode).toList = (⟨x, n⟩ : BitCode).toList := by
  refine List.map_congr_left fun j hj => ?_
  have hjn : j < n := List.mem_range.1 hj
  rw [putBit_getLsbD x n j b hn, if_neg hjn.ne]

theorem push_of_full {c : BitCode} (b : Bool) (h : c.len = 256) : c.push b = none := if_pos h

theorem push_of_lt {c : BitCode} (b : Bool) (h : c.len < 256) : c.push b = some ⟨putBit c.bits c.len b, c.len + 1⟩ :=
  if_neg h.ne

/-- What is pushed comes last. -/
theorem toList_push {c c' : BitCode} {b : Bool} (h : c.push b = some c') (hc : c.len < 256) : c'.toList = c.toList ++ [b] := by
  obtain rfl : _ = c' := Option.some.inj ((push_of_lt b hc).symm.trans h)
  rw [toList_succ, toList_putBit_len b hc, putBit_getLsbD _ _ _ _ hc, if_pos rfl]

theorem pop_of_empty {c : BitCode} (h : c.len = 0) : c.pop = none := if_pos h

theorem pop_of_pos {c : BitCode} (h : 0 < c.len) :
    c.pop = some (c.bits.getLsbD (c.len - 1), ⟨c.bits, c.len - 1⟩) := if_neg h.ne'

/-- What is popped was last. -/
theorem toList_pop {c c' : BitCode} {b : Bool} (h : c.pop = some (b, c')) : c.toList = c'.toList ++ [b] := by
  obtain ⟨bits, len⟩ := c
  cases len with
  | zero => cases h
  | succ n =>
    obtain ⟨rfl, rfl⟩ : _ = b ∧ _ = c' := by simpa [BitCode.pop] using h
    exact toList_succ bits n

/-! ## BC_PUSH and BC_POP -/

section
variable {s : State}

theorem exec_bcPush_some {b : Bool} {c : BitCode} (he : s.err = false) (h : s.bc.push b = some c) :
    exec (.bcPush b) s = .next ({ s with bc := c }.respond .ok (value c.len)) := by
  rw [exec, execBcPush, unlessHalted_running he, h]

theorem exec_bcPush_none {b : Bool} (he : s.err = false) (h : s.bc.push b = none) :
    exec (.bcPush b) s = .next (s.respond .full 0) := by
  rw [exec, execBcPush, unlessHalted_running he, h]
  rfl

theorem exec_bcPop_some {b : Bool} {c : BitCode} (he : s.err = false) (h : s.bc.pop = some (b, c)) :
    exec .bcPop s = .next ({ s with bc := c }.respond .ok (boolValue b)) := by
  rw [exec, execBcPop, unlessHalted_running he, h]

theorem exec_bcPop_none (he : s.err = false) (h : s.bc.pop = none) :
    exec .bcPop s = .next (s.respond .empty 0) := by
  rw [exec, execBcPop, unlessHalted_running he, h]
  rfl

end

/-- Settles O29: below 256 bits the code of the answer is the pushed one, whose list ends in the new bit. -/
theorem bcPushAppendsOrIsFull : Obligations.BcPushAppendsOrIsFull := by
  unfold Obligations.BcPushAppendsOrIsFull
  intro s b he
  refine ⟨fun hfull => exec_bcPush_none he (push_of_full b hfull), fun hlt => ?_⟩
  have hpush := push_of_lt b hlt
  exact ⟨_, exec_bcPush_some he hpush, rfl, toList_push hpush hlt⟩

/-- Settles O30: the popped bit is the last of the list, and only LEN changes. -/
theorem bcPopRemovesOrIsEmpty : Obligations.BcPopRemovesOrIsEmpty := by
  unfold Obligations.BcPopRemovesOrIsEmpty
  intro s he
  refine ⟨fun hempty => exec_bcPop_none he (pop_of_empty hempty), fun hpos => ?_⟩
  have hpop := pop_of_pos hpos
  exact ⟨_, exec_bcPop_some he hpop, toList_pop hpop⟩

/-! ## Commands that clear -/

/-- Settles O28: each command answers (OK, 0) on the state it cleared; the cleared histogram is the one of reset. -/
theorem clearingCommandsClear : Obligations.ClearingCommandsClear := by
  unfold Obligations.ClearingCommandsClear
  intro s he
  refine ⟨?bcClear, ?pqClear, ?bsReset, Vector.replicate 256 0, ?histClear, histAt_resetBlock s⟩
  all_goals exact unlessHalted_running he _

end Sys2Proof.Machine
end

section
/-! SUPPORT. PQ_DEQ takes the head of the logical queue (spec/42_pqueue.md R202, R206); a run of enqueues is the list model's run of
insertions, and these keep equal keys in the order they went in (R203). -/

namespace Sys2Proof.Machine

/-! ## PQ_DEQ -/

section
variable {s : State}

theorem pqHead_eq_pqTail_of_pqList_nil (h : s.pqList = []) : s.pqHead = s.pqTail := by
  have hsize : s.pqSize = 0 := by rw [← length_pqList, h, List.length_nil]
  exact (sub_eq_zero.1 (Fin.ext hsize)).symm

theorem pqDequeue_of_pqList_nil (h : s.pqList = []) : s.pqDequeue = none :=
  if_pos (pqHead_eq_pqTail_of_pqList_nil h)

theorem exec_pqDeq_some {t : State} {n : NodeIx} (he : s.err = false) (h : s.pqDequeue = some (n, t)) :
    exec .pqDeq s = .next (t.respond .ok (n.setWidth 64)) := by
  rw [exec, execPqDeq, unlessHalted_running he, h]

theorem exec_pqDeq_none (he : s.err = false) (h : s.pqDequeue = none) :
    exec .pqDeq s = .next (s.respond .empty 0) := by
  rw [exec, execPqDeq, unlessHalted_running he, h, State.fail_eq_respond]

end

/-- Settles O32: `pq_dequeue` takes the head of the logical content and fails only where that is empty. -/
theorem pqDeqRemovesTheHead : Obligations.PqDeqRemovesTheHead := by
  unfold Obligations.PqDeqRemovesTheHead
  intro s he
  refine ⟨fun hempty => exec_pqDeq_none he (pqDequeue_of_pqList_nil hempty), fun e rest hq => ?_⟩
  obtain ⟨hdeq, hrest⟩ := pqDequeue_spec hq
  exact ⟨exec_pqDeq_some he hdeq, hrest⟩

/-! ## A run of insertions in the list model -/

section
variable {α : Type} {key : α → Value} {q : List α}

/-- The inserted element comes last among the elements of its key, and moves no other. -/
theorem filter_insertKeyed (hq : OrderedBy key q) (e : α) (k : Value) :
    (insertKeyed key q e).filter (fun x => key x = k) =
      q.filter (fun x => key x = k) ++ [e].filter (fun x => key x = k) := by
  induction q with
  | nil => rfl
  | cons x q ih =>
    obtain ⟨hx, hq'⟩ := List.pairwise_cons.1 hq
    by_cases hle : key x ≤ key e
    · rw [insertKeyed_cons_le hle, List.filter_cons, ih hq', List.filter_cons (x := x)]
      split <;> rfl
    · rw [insertKeyed_cons_lt (BitVec.not_le.1 hle)]
      by_cases hk : key e = k
      · have hbehind : (x :: q).filter (fun y => key y = k) = [] := by
          refine List.filter_eq_nil_iff.2 fun y hy hyk => hle ?_
          have hye : key y = key e := (of_decide_eq_true hyk).trans hk.symm
          obtain rfl | hy := List.mem_cons.1 hy
          · exact BitVec.le_of_eq hye
          · exact hye ▸ hx y hy
        rw [List.filter_cons, hbehind]
        simp [hk]
      · simp [hk]

/-- Insertions one after the other leave the elements of each key in the order they went in (R203). -/
theorem filter_foldl_insertKeyed (hq : OrderedBy key q) (es : List α) (k : Value) :
    (es.foldl (insertKeyed key) q).filter (fun x => key x = k) =
      q.filter (fun x => key x = k) ++ es.filter (fun x => key x = k) := by
  induction es generalizing q with
  | nil => simp
  | cons e es ih =>
    rw [List.foldl_cons, ih (hq.insertKeyed e), filter_insertKeyed hq, List.append_assoc, ← List.filter_append,
      List.singleton_append]

end

/-! ## A run of enqueues -/

/-- The entry an enqueue of n stores: the node with its frequency at insertion (10_state.md R41). -/
def State.entryOf (s : State) (n : NodeIx) : PqSlot := ⟨n, (s.node n).freq⟩

/-- An enqueue changes no node, so the entries of later enqueues are already known before it. -/
theorem entryOf_enqueueNode (s : State) (m : NodeIx) : (s.enqueueNode m).entryOf = s.entryOf := by
  funext n
  simp only [State.entryOf, State.node, State.slot?, enqueueNode_arena]

section
variable {s u : State} {q : List PqSlot}

theorem State.QueueOrdered.queued (h : s.QueueOrdered) : s.Queued s s.pqList where
  list := rfl
  ordered := h
  frame := rfl

/-- Enqueues that respect capacity are the list model's insertions, in the same order. -/
theorem State.Queued.enqueueAll (h : s.Queued u q) (ns : List NodeIx) (hlen : q.length + ns.length ≤ pqN) :
    s.Queued (ns.foldl State.enqueueNode u) ((ns.map u.entryOf).foldl (insertKeyed PqSlot.key) q) := by
  induction ns generalizing u q with
  | nil => exact h
  | cons n ns ih =>
    rw [List.length_cons] at hlen
    have hnext : s.Queued (u.enqueueNode n) (insertKeyed PqSlot.key q (u.entryOf n)) := h.enqueue n (by omega)
    have hrest := ih hnext (by rw [length_insertKeyed]; omega)
    rwa [entryOf_enqueueNode] at hrest

end

/-- Settles O33: the queue follows the list model's insertions, and each of these keeps equal keys in the order they went in. -/
theorem queueIsFifoAmongEqualKeys : Obligations.QueueIsFifoAmongEqualKeys := by
  unfold Obligations.QueueIsFifoAmongEqualKeys
  intro s ns hs hroom
  have hqueued := hs.queued.enqueueAll ns (by rwa [length_pqList])
  refine ⟨?_, fun k => ?_⟩
  · rw [State.QueueOrdered, hqueued.list]
    exact hqueued.ordered
  · rw [hqueued.list]
    exact filter_foldl_insertKeyed hs _ k

end Sys2Proof.Machine
end

section
/-! SUPPORT. NS_INIT, NS_PUSH and NS_POP act on the stack's list of entries, the top last (spec/43_nodestack.md R220 to R224). -/

namespace Sys2Proof.Machine

section
variable {s t : State} {n : NodeIx}

/-! ## Push and pop -/

theorem nsPush_of_full (n : NodeIx) (h : s.nsTop = s.nsCap) : s.nsPush n = none := if_pos h

theorem nsPush_of_lt (n : NodeIx) (h : s.nsTop < s.nsCap) :
    s.nsPush n = some { s with nse := s.nse.setIfInBounds s.nsTop n, nsTop := s.nsTop + 1 } := if_neg h.ne

theorem nsPop_of_empty (h : s.nsTop = 0) : s.nsPop = none := if_pos h

theorem nsPop_of_pos (h : 0 < s.nsTop) :
    s.nsPop = some (s.nse.toList.getD (s.nsTop - 1) nullNode, { s with nsTop := s.nsTop - 1 }) := if_neg h.ne'

/-- A stack whose size is in range is stacked over itself: its own entries, the top first. -/
theorem State.stacked_self (h : s.nsTop ≤ nsMax) : s.Stacked s s.nsCap s.nsList.reverse where
  list := s.nsList.reverse_reverse.symm
  frame := by
    have hlen : s.nsList.reverse.length = s.nsTop := by simp [State.nsList, h]
    rw [hlen]

/-- What is pushed comes last. -/
theorem nsList_nsPush (h : s.nsPush n = some t) (hroom : s.nsTop < s.nsCap) (hcap : s.nsCap ≤ nsMax) :
    t.nsList = s.nsList ++ [n] := by
  have htop : s.nsTop ≤ nsMax := hroom.le.trans hcap
  have hself := State.stacked_self htop
  have hpush := hself.push n (by rwa [← hself.nsTop_eq]) hcap
  have ht : s.pushNode n = t := by rw [State.pushNode, h, Option.getD_some]
  rw [← ht, hpush.list, List.reverse_cons, List.reverse_reverse]

/-- What is popped was last. -/
theorem nsList_nsPop (h : s.nsPop = some (n, t)) (htop : s.nsTop ≤ nsMax) : s.nsList = t.nsList ++ [n] := by
  obtain ⟨hne, rfl, rfl⟩ := nsPop_eq h
  have hlt : s.nsTop - 1 < s.nse.toList.length := by rw [Vector.length_toList]; omega
  rw [List.getD_eq_getElem _ _ hlt]
  exact (congrArg s.nse.toList.take (Nat.succ_pred hne)).symm.trans (List.take_concat_get' _ _ hlt).symm

/-! ## The commands -/

theorem exec_nsInit (c : BitVec 16) (he : s.err = false) : exec (.nsInit c) s = .next (
    if nsMax < c.toNat then s.raise .eOperand (value c.toNat) else { s with nsCap := c.toNat, nsTop := 0 }.respond .ok 0) := by
  rw [exec, execNsInit, unlessHalted_running he, setWidth_eq_value]

theorem exec_nsPush_invalid (he : s.err = false) (hv : s.valid n = false) :
    exec (.nsPush n) s = .next (s.raise .eOperand (n.setWidth 64)) := by
  rw [exec, execNsPush, unlessHalted_running he, withNode_invalid hv]

theorem exec_nsPush_some (he : s.err = false) (hv : s.valid n = true) (h : s.nsPush n = some t) :
    exec (.nsPush n) s = .next (t.respond .ok (value t.nsTop)) := by
  rw [exec, execNsPush, unlessHalted_running he, withNode_valid hv, h]

theorem exec_nsPush_none (he : s.err = false) (hv : s.valid n = true) (h : s.nsPush n = none) :
    exec (.nsPush n) s = .next (s.respond .full 0) := by
  rw [exec, execNsPush, unlessHalted_running he, withNode_valid hv, h, State.fail_eq_respond]

theorem exec_nsPop_some (he : s.err = false) (h : s.nsPop = some (n, t)) :
    exec .nsPop s = .next (t.respond .ok (n.setWidth 64)) := by
  rw [exec, execNsPop, unlessHalted_running he, h]

theorem exec_nsPop_none (he : s.err = false) (h : s.nsPop = none) : exec .nsPop s = .next (s.respond .empty 0) := by
  rw [exec, execNsPop, unlessHalted_running he, h, State.fail_eq_respond]

end

/-- Settles O34: the list of a push that finds room ends in the new node, and a pop takes the last one of a list that has one. -/
theorem nodeStackIsABoundedStack : Obligations.NodeStackIsABoundedStack := by
  unfold Obligations.NodeStackIsABoundedStack
  intro s he
  refine ⟨fun c => exec_nsInit c he, fun n hv => exec_nsPush_invalid he hv, ?full, ?room, ?empty, ?pos⟩
  case full => exact fun n hv hfull => exec_nsPush_none he hv (nsPush_of_full n hfull)
  case room =>
    intro n hv hroom hcap
    have hpush := nsPush_of_lt n hroom
    exact ⟨_, exec_nsPush_some he hv hpush, nsList_nsPush hpush hroom hcap⟩
  case empty => exact fun hempty => exec_nsPop_none he (nsPop_of_empty hempty)
  case pos =>
    intro hpos htop
    have hpop := nsPop_of_pos hpos
    exact ⟨_, exec_nsPop_some he hpop, nsList_nsPop hpop htop⟩

end Sys2Proof.Machine
end

section
/-! SUPPORT. The commands on the node arena (spec/44_tree.md R240 to R247): what each answers behind each check, and the slots it
leaves, through the lemmas about `makeLeaf`, `join` and `freeTree`. -/

namespace Sys2Proof.Machine

/-- Frequencies and counts add modulo 2^64 (R242, R250). -/
theorem add_eq_value (a b : Value) : a + b = value (a.toNat + b.toNat) := BitVec.add_def a b

/-! ## NODE_LEAF -/

section
variable {s : State} (x : Sym) (f : Value)

theorem exec_nodeLeaf_full (he : s.err = false) (hfull : s.freeSlots = 0) :
    exec (.nodeLeaf x f) s = .next (s.respond .full 0) := by
  rw [exec, execNodeLeaf, unlessHalted_running he, if_pos hfull, State.fail_eq_respond]

theorem exec_nodeLeaf_free (he : s.err = false) (hfree : 0 < s.freeSlots) :
    exec (.nodeLeaf x f) s = .next ((s.makeLeaf x f).2.respond .ok (value s.alloc.toNat)) := by
  rw [exec, execNodeLeaf, unlessHalted_running he, if_neg hfree.ne', ← setWidth_eq_value]
  rfl

end

/-- Settles O35: the leaf is stored in the slot `alloc` answers, which is the lowest free one, and in no other. -/
theorem nodeLeafFillsTheLowestFreeSlot : Obligations.NodeLeafFillsTheLowestFreeSlot := by
  unfold Obligations.NodeLeafFillsTheLowestFreeSlot
  intro s x f he
  refine ⟨exec_nodeLeaf_full x f he, fun hfree => ⟨s.alloc, (s.makeLeaf x f).2.arena, alloc_lowestFree hfree, ?_⟩⟩
  rw [← makeLeaf_eq]
  have hslot := slot?_setNode_alloc hfree ⟨true, x, f, nullNode, nullNode, false⟩
  exact ⟨exec_nodeLeaf_free x f he hfree, (hslot _).trans (if_pos rfl), fun m hm => (hslot m).trans (if_neg hm)⟩

/-! ## NODE_JOIN -/

section
variable {s : State} {l r : NodeIx}

theorem exec_nodeJoin_left_invalid (he : s.err = false) (hl : s.valid l = false) :
    exec (.nodeJoin l r) s = .next (s.raise .eOperand (value l.toNat)) := by
  rw [exec, execNodeJoin, unlessHalted_running he, withNode_invalid hl, setWidth_eq_value]

theorem exec_nodeJoin_right_invalid (he : s.err = false) (hl : s.valid l = true) (hr : s.valid r = false) :
    exec (.nodeJoin l r) s = .next (s.raise .eOperand (value r.toNat)) := by
  rw [exec, execNodeJoin, unlessHalted_running he, withNode_valid hl, withNode_invalid hr, setWidth_eq_value]

/-- The checks that follow on two valid nodes, in the rule's order, and the join. -/
theorem exec_nodeJoin_valid (he : s.err = false) (hl : s.valid l = true) (hr : s.valid r = true) :
    exec (.nodeJoin l r) s = .next (
      if l = r then s.raise .eOperand (value r.toNat)
      else if (s.node l).hasParent then s.raise .eOperand (value l.toNat)
      else if (s.node r).hasParent then s.raise .eOperand (value r.toNat)
      else if s.freeSlots = 0 then s.respond .full 0
      else (s.join l r).2.respond .ok (value s.alloc.toNat)) := by
  rw [exec, execNodeJoin, unlessHalted_running he, withNode_valid hl, withNode_valid hr]
  simp only [← setWidth_eq_value]
  rfl

theorem State.Joinable.exec_nodeJoin (h : s.Joinable l r) (he : s.err = false) :
    exec (.nodeJoin l r) s = .next ((s.join l r).2.respond .ok (value s.alloc.toNat)) := by
  obtain ⟨⟨hl, hlp⟩, ⟨hr, hrp⟩, hne, hfree⟩ := h
  rw [exec_nodeJoin_valid he hl hr, if_neg hne, hlp, hrp, if_neg Bool.false_ne_true, if_neg Bool.false_ne_true,
    if_neg hfree.ne']

/-- A join sets the mark of each of its two children (R242). -/
theorem State.Joinable.slot?_child (h : s.Joinable l r) {c : NodeIx} (hc : c = l ∨ c = r) {nd : Node}
    (hnd : s.slot? c = some nd) : (s.join l r).2.slot? c = some { nd with hasParent := true } := by
  have hv : s.valid c = true := by
    obtain rfl | rfl := hc
    · exact h.left.1
    · exact h.right.1
  rw [slot?_join_old h.free (ne_alloc_of_valid h.free hv), hnd, Option.map_some, decide_eq_true hc, Bool.or_true]

end

/-- Settles O36: the operands are joinable, so the command answers on `join`, whose slots are known. -/
theorem nodeJoinMakesTheParent : Obligations.NodeJoinMakesTheParent := by
  unfold Obligations.NodeJoinMakesTheParent
  intro s l r nl nr he hnl hnr hvl hvr hne hpl hpr hfree
  have hl : s.valid l = true := (valid_of_slot? hnl).trans hvl
  have hr : s.valid r = true := (valid_of_slot? hnr).trans hvr
  have hnodel := node_of_slot? hnl
  have hnoder := node_of_slot? hnr
  have hjoin : s.Joinable l r := ⟨⟨hl, hnodel ▸ hpl⟩, ⟨hr, hnoder ▸ hpr⟩, hne, hfree⟩
  refine ⟨s.alloc, (s.join l r).2.arena, alloc_lowestFree hfree, ?_⟩
  rw [← join_eq]
  refine ⟨hjoin.exec_nodeJoin he, ?parent, hjoin.slot?_child (.inl rfl) hnl, hjoin.slot?_child (.inr rfl) hnr,
    fun m => slot?_join_other hfree⟩
  case parent =>
    rw [slot?_join_new hfree (ne_alloc_of_valid hfree hl) (ne_alloc_of_valid hfree hr), hnodel, hnoder, add_eq_value]
    rfl

/-- Settles O37: each refusal is the first check of the rule that fails. -/
theorem nodeJoinChecksInOrder : Obligations.NodeJoinChecksInOrder := by
  unfold Obligations.NodeJoinChecksInOrder
  intro s l r he
  refine ⟨exec_nodeJoin_left_invalid he, exec_nodeJoin_right_invalid he, ?equal, ?leftOwned, ?rightOwned, ?full⟩
  case equal =>
    rintro hl rfl
    rw [exec_nodeJoin_valid he hl hl, if_pos rfl]
  case leftOwned =>
    intro hl hr hne hlp
    rw [exec_nodeJoin_valid he hl hr, if_neg hne, if_pos hlp]
  case rightOwned =>
    intro hl hr hne hlp hrp
    rw [exec_nodeJoin_valid he hl hr, if_neg hne, hlp, if_neg Bool.false_ne_true, if_pos hrp]
  case full =>
    intro hl hr hne hlp hrp hfull
    rw [exec_nodeJoin_valid he hl hr, if_neg hne, hlp, hrp, if_neg Bool.false_ne_true, if_neg Bool.false_ne_true,
      if_pos hfull]

/-! ## NODE_READ -/

/-- The selectors above 5 name no field (R245). -/
theorem fieldOf?_eq_none_iff (f : BitVec 8) : fieldOf? f = none ↔ 5 < f.toNat := by
  unfold fieldOf?
  split
  case h_7 => simp only [true_iff]; grind
  all_goals rename_i hf; simp [hf]

/-- A node without children is a leaf (00_scope.md R15). -/
theorem boolValue_isLeaf (nd : Node) :
    boolValue nd.isLeaf = if nd.left = 0xFFFF ∧ nd.right = 0xFFFF then 1 else 0 := by
  simp [boolValue, Node.isLeaf, nullNode]

section
variable {s : State} {f : BitVec 8} {n : NodeIx}

theorem exec_nodeRead_selector (he : s.err = false) (hf : 5 < f.toNat) :
    exec (.nodeRead f n) s = .next (s.raise .eOperand (value f.toNat)) := by
  rw [exec, execNodeRead, unlessHalted_running he, (fieldOf?_eq_none_iff f).2 hf, setWidth_eq_value]

theorem exec_nodeRead_field {fd : NodeField} (he : s.err = false) (hf : fieldOf? f = some fd) :
    exec (.nodeRead f n) s = s.withNode n (.next (s.respond .ok ((s.node n).fieldValue fd))) := by
  rw [exec, execNodeRead, unlessHalted_running he, hf]

theorem exec_nodeRead_invalid (he : s.err = false) (hf : ¬ 5 < f.toNat) (hv : s.valid n = false) :
    exec (.nodeRead f n) s = .next (s.raise .eOperand (value n.toNat)) := by
  obtain ⟨fd, hfd⟩ := Option.ne_none_iff_exists'.1 (mt (fieldOf?_eq_none_iff f).1 hf)
  rw [exec_nodeRead_field he hfd, withNode_invalid hv, setWidth_eq_value]

theorem exec_nodeRead_valid {fd : NodeField} (he : s.err = false) (hf : fieldOf? f = some fd) (hv : s.valid n = true) :
    exec (.nodeRead f n) s = .next (s.respond .ok ((s.node n).fieldValue fd)) := by
  rw [exec_nodeRead_field he hf, withNode_valid hv]

end

/-- Settles O38: the selector, then the node, then each of the six fields. -/
theorem nodeReadAnswersTheField : Obligations.NodeReadAnswersTheField := by
  unfold Obligations.NodeReadAnswersTheField
  intro s f n he
  by_cases hf : 5 < f.toNat
  · rw [if_pos hf, exec_nodeRead_selector he hf]
  rw [if_neg hf]
  by_cases hv : s.valid n = false
  · rw [if_pos hv, exec_nodeRead_invalid he hf hv]
  rw [if_neg hv]
  rw [Bool.not_eq_false] at hv
  have hcases : f = 0 ∨ f = 1 ∨ f = 2 ∨ f = 3 ∨ f = 4 ∨ f = 5 := by bv_omega
  rcases hcases with rfl | rfl | rfl | rfl | rfl | rfl <;> rw [exec_nodeRead_valid he rfl hv, Node.fieldValue]
  · rw [setWidth_eq_value]; rfl
  · rfl
  · rw [setWidth_eq_value]; rfl
  · rw [setWidth_eq_value]; rfl
  · rw [boolValue_isLeaf]; rfl
  · rfl

/-! ## RELEASE -/

/-- Releasing a tree changes only the arena and ROOT, which it clears where it named one of the nodes (R246). -/
theorem freeTree_eq (s : State) (t : NodeTree) :
    s.freeTree t =
      { s with arena := (s.freeTree t).arena, root := if s.root ∈ t.postorder then nullNode else s.root } := by
  unfold State.freeTree
  induction t.postorder generalizing s with
  | nil => rfl
  | cons n ns ih =>
    have hnode := freeNode_eq s n
    have hroot : (s.freeNode n).root = if s.root = n then nullNode else s.root := by rw [hnode]
    rw [List.foldl_cons, ih, hroot, hnode]
    by_cases hn : s.root = n <;> simp [hn]

section
variable {s : State} {n : NodeIx}

theorem exec_release_invalid (he : s.err = false) (hv : s.valid n = false) :
    exec (.release n) s = .next (s.raise .eOperand (value n.toNat)) := by
  rw [exec, execRelease, unlessHalted_running he, withNode_invalid hv, setWidth_eq_value]

theorem exec_release_owned (he : s.err = false) (hv : s.valid n = true) (hp : (s.node n).hasParent = true) :
    exec (.release n) s = .next (s.raise .eOperand (value n.toNat)) := by
  rw [exec, execRelease, unlessHalted_running he, withNode_valid hv, if_pos hp, setWidth_eq_value]

theorem exec_release_tree {t : NodeTree} (he : s.err = false) (hv : s.valid n = true)
    (hp : (s.node n).hasParent = false) (ht : s.treeAt n = some t) :
    exec (.release n) s = .next ((s.freeTree t).respond .ok (value (2 * t.leafCount - 1))) := by
  rw [exec, execRelease, unlessHalted_running he, withNode_valid hv, hp, if_neg Bool.false_ne_true, withTree_some ht,
    t.length_postorder]

theorem valid_freeTree_of_mem {t : NodeTree} {m : NodeIx} (hm : m ∈ t.postorder) : (s.freeTree t).valid m = false := by
  rw [State.valid, slot?_freeTree]
  cases s.slot? m <;> simp [hm]

theorem slot?_freeTree_of_not_mem {t : NodeTree} {m : NodeIx} (hm : m ∉ t.postorder) :
    (s.freeTree t).slot? m = s.slot? m := by
  rw [slot?_freeTree, decide_eq_true hm]
  simp

end

/-- Settles O39: the command frees the tree `treeAt` finds, whose postorder has two nodes for every leaf but one. -/
theorem releaseFreesTheWholeTree : Obligations.ReleaseFreesTheWholeTree := by
  unfold Obligations.ReleaseFreesTheWholeTree
  intro s n he
  refine ⟨exec_release_invalid he, exec_release_owned he, fun tr hv hp htr => ⟨(s.freeTree tr).arena, ?_⟩⟩
  have hfreed := freeTree_eq s tr
  rw [nullNode] at hfreed
  rw [← hfreed]
  exact ⟨exec_release_tree he hv hp htr, fun m => valid_freeTree_of_mem, fun m => slot?_freeTree_of_not_mem⟩

end Sys2Proof.Machine
end

section
/-! SUPPORT. The commands that write the histogram (spec/44_tree.md R249, R250), and the checks BUILD makes on it (R252). -/

namespace Sys2Proof.Machine

section
variable {s : State}

theorem exec_histSet (x : Sym) (c : Value) (he : s.err = false) :
    exec (.histSet x c) s = .next ((s.setHist x c).respond .ok 0) := unlessHalted_running he _

/-- HIST_ADD stores the sum and answers what it stored. -/
theorem exec_histAdd (x : Sym) (c : Value) (he : s.err = false) :
    exec (.histAdd x c) s = .next ((s.setHist x (s.histAt x + c)).respond .ok (s.histAt x + c)) := by
  rw [exec, execHistAdd, unlessHalted_running he, histAt_setHist, if_pos rfl]

theorem exec_build_fewSymbols (he : s.err = false) (hfew : s.symbolCount < 2) :
    exec .build s = .next (s.raise .ePrecond (value s.symbolCount)) := by
  rw [exec, execBuild, unlessHalted_running he]
  dsimp only
  rw [histSymbols_length, if_pos hfew]

theorem exec_build_fewSlots (he : s.err = false) (htwo : 2 ≤ s.symbolCount)
    (hfew : s.freeSlots < 2 * s.symbolCount - 1) : exec .build s = .next (s.raise .eNoMem (value s.freeSlots)) := by
  rw [exec, execBuild, unlessHalted_running he]
  dsimp only
  rw [histSymbols_length, if_neg (Nat.not_lt.2 htwo), if_pos hfew]

end

/-- Settles O40: both commands are one `setHist`, which writes one entry. -/
theorem histogramWritesOneEntry : Obligations.HistogramWritesOneEntry := by
  unfold Obligations.HistogramWritesOneEntry
  intro s x c he
  rw [← add_eq_value]
  exact ⟨⟨(s.setHist x c).hist, exec_histSet x c he, fun y => histAt_setHist s x y c⟩,
    ⟨(s.setHist x (s.histAt x + c)).hist, exec_histAdd x c he, fun y => histAt_setHist s x y _⟩⟩

/-- Settles O41: each refusal answers on the state the command found. -/
theorem buildChecksBeforeItChanges : Obligations.BuildChecksBeforeItChanges := by
  unfold Obligations.BuildChecksBeforeItChanges
  exact fun s he => ⟨exec_build_fewSymbols he, exec_build_fewSlots he⟩

end Sys2Proof.Machine
end

section
/-! SUPPORT. CODETABLE (spec/45_tree_codes.md R280 to R284): the walk records for each symbol the path to the leaf of the symbol
that it visits last (I16), and paths to leaves are no prefixes of one another. CT_BIT and CT_LOADBC read a code (R286, R287). -/

namespace Sys2Proof.Machine

/-! ## Paths to leaves -/

section
variable {t l r : NodeTree} {n : NodeIx} {p q : List Bool} {x y : Sym}

@[simp] theorem reaches_leaf : (NodeTree.leaf n y).Reaches p x ↔ p = [] ∧ y = x := by
  cases p <;> simp [NodeTree.Reaches, NodeTree.sub]

@[simp] theorem reaches_node_nil : ¬ (NodeTree.node n l r).Reaches [] x := by simp [NodeTree.Reaches, NodeTree.sub]

@[simp] theorem reaches_node_left : (NodeTree.node n l r).Reaches (false :: p) x ↔ l.Reaches p x := .rfl

@[simp] theorem reaches_node_right : (NodeTree.node n l r).Reaches (true :: p) x ↔ r.Reaches p x := .rfl

/-- A symbol that a path reaches is one of the tree's. -/
theorem mem_symbols_of_reaches (h : t.Reaches p x) : x ∈ t.symbols := by
  induction t generalizing p with
  | leaf n y =>
    obtain ⟨-, rfl⟩ := reaches_leaf.1 h
    exact List.mem_singleton_self y
  | node n l r ihl ihr =>
    cases p with
    | nil => exact absurd h reaches_node_nil
    | cons b p =>
      cases b with
      | false => exact List.mem_append_left _ (ihl (reaches_node_left.1 h))
      | true => exact List.mem_append_right _ (ihr (reaches_node_right.1 h))

/-- No path to a leaf goes on from another leaf (45_tree_codes.md R284). -/
theorem symbol_eq_of_prefix (hp : t.Reaches p x) (hq : t.Reaches q y) (hpq : p <+: q) : x = y := by
  induction t generalizing p q with
  | leaf n z => exact (reaches_leaf.1 hp).2.symm.trans (reaches_leaf.1 hq).2
  | node n l r ihl ihr =>
    cases p with
    | nil => exact absurd hp reaches_node_nil
    | cons b p =>
      cases q with
      | nil => exact absurd hq reaches_node_nil
      | cons c q =>
        obtain ⟨rfl, htail⟩ := List.cons_prefix_cons.1 hpq
        cases b with
        | false => exact ihl (reaches_node_left.1 hp) (reaches_node_left.1 hq) htail
        | true => exact ihr (reaches_node_right.1 hp) (reaches_node_right.1 hq) htail

/-- The path p reaches the leaf of x that the walk visits last (45_tree_codes.md R282, I16). -/
def NodeTree.LastReaches (t : NodeTree) (p : List Bool) (x : Sym) : Prop :=
  t.Reaches p x ∧ ∀ q, t.Reaches q x → q = p ∨ VisitedBefore q p

theorem lastReaches_leaf (n : NodeIx) (x : Sym) : (NodeTree.leaf n x).LastReaches [] x :=
  ⟨reaches_leaf.2 ⟨rfl, rfl⟩, fun _ hq => .inl (reaches_leaf.1 hq).1⟩

/-- Going the same way first leaves the order of visits as it was. -/
theorem eq_or_visitedBefore_cons (b : Bool) (h : q = p ∨ VisitedBefore q p) :
    b :: q = b :: p ∨ VisitedBefore (b :: q) (b :: p) := h.imp (congrArg _) .cons

/-- The right subtree is visited last. -/
theorem NodeTree.LastReaches.right (h : r.LastReaches p x) : (NodeTree.node n l r).LastReaches (true :: p) x := by
  obtain ⟨hreach, hlast⟩ := h
  refine ⟨reaches_node_right.2 hreach, fun q hq => ?_⟩
  match q with
  | [] => exact absurd hq reaches_node_nil
  | false :: q => exact .inr (.rel ⟨rfl, rfl⟩)
  | true :: q => exact eq_or_visitedBefore_cons true (hlast q (reaches_node_right.1 hq))

/-- The left subtree's last leaf of a symbol is the tree's where the right subtree has none. -/
theorem NodeTree.LastReaches.left (h : l.LastReaches p x) (hr : x ∉ r.symbols) :
    (NodeTree.node n l r).LastReaches (false :: p) x := by
  obtain ⟨hreach, hlast⟩ := h
  refine ⟨reaches_node_left.2 hreach, fun q hq => ?_⟩
  match q with
  | [] => exact absurd hq reaches_node_nil
  | false :: q => exact eq_or_visitedBefore_cons false (hlast q (reaches_node_left.1 hq))
  | true :: q => exact absurd (mem_symbols_of_reaches (reaches_node_right.1 hq)) hr

end

/-! ## The walk -/

theorem pushed_of_lt {w : BitCode} (b : Bool) (hw : w.len < 256) :
    (w.pushed b).len = w.len + 1 ∧ (w.pushed b).toList = w.toList ++ [b] := by
  have hpush := push_of_lt b hw
  have heq : w.pushed b = ⟨putBit w.bits w.len b, w.len + 1⟩ := by rw [BitCode.pushed, hpush, Option.getD_some]
  rw [heq]
  exact ⟨rfl, toList_push hpush hw⟩

theorem recordCodes_eq (t : NodeTree) (s : State) (w : BitCode) : ∃ c, s.recordCodes w t = { s with ct := c } := by
  induction t generalizing s w with
  | leaf n x => exact ⟨_, rfl⟩
  | node n l r ihl ihr =>
    obtain ⟨c, hc⟩ := ihl s (w.pushed false)
    obtain ⟨c', hc'⟩ := ihr (s.recordCodes (w.pushed false) l) (w.pushed true)
    exact ⟨c', by rw [State.recordCodes, hc', hc]⟩

theorem ctAt_recordCodes_of_not_mem {t : NodeTree} {x : Sym} (hx : x ∉ t.symbols) (s : State) (w : BitCode) :
    (s.recordCodes w t).ctAt x = s.ctAt x := by
  induction t generalizing s w with
  | leaf n y => rw [State.recordCodes, ctAt_setCt, if_neg (List.ne_of_not_mem_cons hx)]
  | node n l r ihl ihr =>
    obtain ⟨hl, hr⟩ := not_or.1 (mt List.mem_append.2 hx)
    rw [State.recordCodes, ihr hr, ihl hl]

/-- The walk from working code w records for each symbol of the tree w and then the path to the symbol's last leaf. -/
theorem ctAt_recordCodes_of_mem {t : NodeTree} {x : Sym} (hx : x ∈ t.symbols) (s : State) {w : BitCode}
    (hw : w.len + t.height ≤ 256) :
    ((s.recordCodes w t).ctAt x).valid = true ∧
      ∃ p, t.LastReaches p x ∧ ((s.recordCodes w t).ctAt x).code.toList = w.toList ++ p := by
  induction t generalizing s w with
  | leaf n y =>
    obtain rfl := List.mem_singleton.1 hx
    rw [State.recordCodes, ctAt_setCt, if_pos rfl]
    exact ⟨rfl, [], lastReaches_leaf n x, (List.append_nil _).symm⟩
  | node n l r ihl ihr =>
    rw [NodeTree.height] at hw
    have hlt : w.len < 256 := by omega
    rw [State.recordCodes]
    by_cases hr : x ∈ r.symbols
    · obtain ⟨hlen, hlist⟩ := pushed_of_lt true hlt
      obtain ⟨hvalid, p, hp, hcode⟩ := ihr hr (s.recordCodes (w.pushed false) l) (w := w.pushed true) (by omega)
      exact ⟨hvalid, true :: p, hp.right, by rw [hcode, hlist, List.append_assoc, List.singleton_append]⟩
    · have hl : x ∈ l.symbols := (List.mem_append.1 hx).resolve_right hr
      obtain ⟨hlen, hlist⟩ := pushed_of_lt false hlt
      obtain ⟨hvalid, p, hp, hcode⟩ := ihl hl s (w := w.pushed false) (by omega)
      rw [ctAt_recordCodes_of_not_mem hr]
      exact ⟨hvalid, false :: p, hp.left hr, by rw [hcode, hlist, List.append_assoc, List.singleton_append]⟩

/-! ## The command -/

section
variable {s : State} {t : NodeTree}

theorem exec_codeTable_tree (he : s.err = false) (hv : s.valid s.root = true) (ht : s.treeAt s.root = some t) :
    exec .codeTable s = .next ((s.invalidateCt.recordCodes BitCode.empty t).respond .ok (value t.leafCount)) := by
  rw [exec, execCodeTable, unlessHalted_running he, State.withRoot, withNode_valid hv, withTree_some ht]

theorem ctAt_invalidateCt_valid (s : State) (x : Sym) : (s.invalidateCt.ctAt x).valid = false := by
  simp [State.invalidateCt, State.ctAt]

/-- CODETABLE makes valid exactly the tree's symbols (R280, R282). -/
theorem ctAt_codeTable_valid_iff (s : State) (ht : t.height ≤ 256) (x : Sym) :
    ((s.invalidateCt.recordCodes BitCode.empty t).ctAt x).valid = true ↔ x ∈ t.symbols := by
  refine ⟨fun hvalid => by_contra fun hx => ?_, fun hx => (ctAt_recordCodes_of_mem hx _ ((Nat.zero_add _).trans_le ht)).1⟩
  rw [ctAt_recordCodes_of_not_mem hx, ctAt_invalidateCt_valid] at hvalid
  exact Bool.false_ne_true hvalid

/-- Each code of CODETABLE is the path to its symbol's last leaf. -/
theorem ctAt_codeTable_lastReaches (s : State) (ht : t.height ≤ 256) {x : Sym} (hx : x ∈ t.symbols) :
    t.LastReaches ((s.invalidateCt.recordCodes BitCode.empty t).ctAt x).code.toList x := by
  obtain ⟨-, p, hp, hcode⟩ := ctAt_recordCodes_of_mem hx s.invalidateCt (w := BitCode.empty) ((Nat.zero_add _).trans_le ht)
  rw [hcode]
  exact hp

end

/-- Settles O43: what the walk from the empty code records, on entries all invalid, changes CT alone. -/
theorem codeTableHoldsPrefixFreeTreePaths : Obligations.CodeTableHoldsPrefixFreeTreePaths := by
  unfold Obligations.CodeTableHoldsPrefixFreeTreePaths
  intro s tr he hv htree hheight
  obtain ⟨c, hc⟩ := recordCodes_eq tr s.invalidateCt BitCode.empty
  refine ⟨c, ?_⟩
  have ht : s.invalidateCt.recordCodes BitCode.empty tr = { s with ct := c } := hc
  have hlast := fun x hx => ctAt_codeTable_lastReaches s hheight (x := x) hx
  rw [← ht]
  refine ⟨exec_codeTable_tree he hv htree, ctAt_codeTable_valid_iff s hheight, hlast, fun x hx y hy hne hprefix => ?_⟩
  exact hne (symbol_eq_of_prefix (hlast x hx).1 (hlast y hy).1 hprefix)

/-! ## CT_BIT and CT_LOADBC -/

section
variable {s : State} {x : Sym}

theorem exec_ctBit_absent (k : BitVec 16) (he : s.err = false) (hx : (s.ctAt x).valid = false) :
    exec (.ctBit x k) s = .next (s.raise .eNoCode (value x.toNat)) := by
  rw [exec, execCtBit, unlessHalted_running he, hx, setWidth_eq_value]
  rfl

theorem exec_ctBit_beyond {k : BitVec 16} (he : s.err = false) (hx : (s.ctAt x).valid = true)
    (hk : (s.ctAt x).code.len ≤ k.toNat) : exec (.ctBit x k) s = .next (s.raise .eOperand (value k.toNat)) := by
  rw [exec, execCtBit, unlessHalted_running he, hx, Bool.not_true, if_neg Bool.false_ne_true, if_pos hk, setWidth_eq_value]

theorem exec_ctBit_within {k : BitVec 16} {b : Bool} (he : s.err = false) (hx : (s.ctAt x).valid = true)
    (hb : (s.ctAt x).code.toList[k.toNat]? = some b) : exec (.ctBit x k) s = .next (s.respond .ok (boolValue b)) := by
  obtain ⟨hlen, hbit⟩ := List.getElem?_eq_some_iff.1 hb
  have hk : ¬ (s.ctAt x).code.len ≤ k.toNat := by rwa [length_toList, ← Nat.not_le] at hlen
  have hbit : (s.ctAt x).code.bits.getLsbD k.toNat = b := by simpa [BitCode.toList] using hbit
  rw [exec, execCtBit, unlessHalted_running he, hx, Bool.not_true, if_neg Bool.false_ne_true, if_neg hk, hbit]

theorem exec_ctLoadBc_absent (he : s.err = false) (hx : (s.ctAt x).valid = false) :
    exec (.ctLoadBc x) s = .next (s.raise .eNoCode (value x.toNat)) := by
  rw [exec, execCtLoadBc, unlessHalted_running he, hx, setWidth_eq_value]
  rfl

theorem exec_ctLoadBc_present (he : s.err = false) (hx : (s.ctAt x).valid = true) :
    exec (.ctLoadBc x) s = .next ({ s with bc := (s.ctAt x).code }.respond .ok (value (s.ctAt x).code.len)) := by
  rw [exec, execCtLoadBc, unlessHalted_running he, hx]
  rfl

end

/-- Settles O45: the entry is checked first, then CT_BIT's index. -/
theorem codeTableReadsAnswerTheCode : Obligations.CodeTableReadsAnswerTheCode := by
  unfold Obligations.CodeTableReadsAnswerTheCode
  intro s x k he
  exact ⟨fun hx => ⟨exec_ctBit_absent k he hx, exec_ctLoadBc_absent he hx⟩,
    fun hx => ⟨exec_ctBit_beyond he hx, fun b => exec_ctBit_within he hx, exec_ctLoadBc_present he hx⟩⟩

end Sys2Proof.Machine
end

section
/-! SUPPORT. The faults of check_dump (spec/45_tree_codes.md R290, R359) and the refusals of DESERIALIZE (R292). -/

namespace Sys2Proof.Machine

/-! ## The faults of check_dump -/

/-- What check_dump finds wrong at offset o of t, with d complete dumps before it (45_tree_codes.md R290). -/
def DumpFault (t : List Byte) (o d : Nat) : Prop :=
  (o = t.length ∧ d ≠ 1) ∨ (t[o]? = some markLeaf ∧ o + 1 = t.length) ∨ (t[o]? = some markNode ∧ d < 2) ∨
    ∃ m, t[o]? = some m ∧ m ≠ markLeaf ∧ m ≠ markNode

theorem dumpFault_append (p t : List Byte) (d : Nat) : DumpFault (p ++ t) p.length d ↔ DumpFault t 0 d := by
  have hnext : (p ++ t)[p.length]? = t[0]? := by rw [List.getElem?_append_right (Nat.le_refl _), Nat.sub_self]
  have hend : p.length + 1 = (p ++ t).length ↔ 0 + 1 = t.length := by simp
  rw [DumpFault, DumpFault, hnext, hend, List.length_append, Nat.left_eq_add, eq_comm (a := 0)]

theorem DumpFault.le_length {t : List Byte} {o d : Nat} (h : DumpFault t o d) : o ≤ t.length := by
  obtain ⟨rfl, -⟩ | ⟨-, hend⟩ | ⟨hnode, -⟩ | ⟨m, hm, -⟩ := h
  · exact Nat.le_refl _
  · exact hend ▸ Nat.le_succ o
  · exact (List.getElem?_eq_some_iff.1 hnode).1.le
  · exact (List.getElem?_eq_some_iff.1 hm).1.le

/-- check_dump answers the offset it stands at where the bytes left start with a fault. -/
theorem checkDump_of_dumpFault {t : List Byte} {d : Nat} (h : DumpFault t 0 d) (i leaves : Nat) :
    checkDump t i d leaves = .bad i := by
  cases t with
  | nil =>
    have hd : d ≠ 1 := by simpa [DumpFault] using h
    simp [checkDump, hd]
  | cons m t =>
    have hm : (m = markLeaf ∧ t = []) ∨ (m = markNode ∧ d < 2) ∨ (m ≠ markLeaf ∧ m ≠ markNode) := by
      simpa [DumpFault, eq_comm (a := 0)] using h
    have hne : markNode ≠ markLeaf := by decide
    obtain ⟨rfl, rfl⟩ | ⟨rfl, hd⟩ | ⟨hl, hn⟩ := hm
    · simp [checkDump]
    · cases t <;> simp [checkDump, hne, hd]
    · cases t <;> simp [checkDump, hl, hn]

/-- Where the bytes left start with no fault they are none and one dump is complete, or check_dump reads a leaf or a node. -/
theorem checkDump_cases {t : List Byte} {d : Nat} (h : ¬ DumpFault t 0 d) :
    (t = [] ∧ d = 1) ∨ (∃ x rest, t = markLeaf :: x :: rest) ∨ (∃ rest, t = markNode :: rest ∧ 2 ≤ d) := by
  cases t with
  | nil => exact .inl ⟨rfl, by_contra fun hd => h (.inl ⟨rfl, hd⟩)⟩
  | cons m t =>
    by_cases hl : m = markLeaf
    · subst hl
      cases t with
      | nil => exact absurd (.inr (.inl ⟨rfl, rfl⟩)) h
      | cons x rest => exact .inr (.inl ⟨x, rest, rfl⟩)
    by_cases hn : m = markNode
    · subst hn
      exact .inr (.inr ⟨t, rfl, Nat.not_lt.1 fun hd => h (.inr (.inr (.inl ⟨rfl, hd⟩)))⟩)
    · exact absurd (.inr (.inr (.inr ⟨m, rfl, hl, hn⟩))) h

/-- From a stack of dumps on, check_dump answers the offset of a fault only after more dumps, with the fault next. -/
theorem dumpFault_of_checkDump {t : List Byte} {ts : List NodeTree} {leaves o : Nat}
    (h : checkDump t (stackDump ts).length ts.length leaves = .bad o) :
    ∃ ts' t', stackDump ts' ++ t' = stackDump ts ++ t ∧ (stackDump ts').length = o ∧ DumpFault t' 0 ts'.length := by
  induction hlen : t.length using Nat.strong_induction_on generalizing t ts leaves with
  | _ k ih =>
    subst hlen
    by_cases hfault : DumpFault t 0 ts.length
    · rw [checkDump_of_dumpFault hfault] at h
      exact ⟨ts, t, rfl, DumpCheck.bad.inj h, hfault⟩
    obtain ⟨rfl, hone⟩ | ⟨x, rest, rfl⟩ | ⟨rest, rfl, htwo⟩ := checkDump_cases hfault
    · simp [checkDump, hone] at h
    · rw [checkDump_leaf] at h
      rw [stackDump_leaf]
      exact ih rest.length (by simp) (by simpa [stackDump, NodeTree.dump] using h) rfl
    · match ts with
      | r :: l :: ts =>
        rw [checkDump_node _ _ _ _ htwo] at h
        rw [stackDump_node]
        exact ih rest.length (by simp) (by simpa [stackDump, NodeTree.dump, Nat.add_assoc] using h) rfl
      | [_] | [] => simp at htwo

/-- check_dump reads complete dumps one after the other as so many trees with their leaves. -/
theorem checkDump_dumps (trs : List NodeTree) (rest : List Byte) (i d leaves : Nat) :
    ∃ leaves', checkDump (trs.flatMap NodeTree.dump ++ rest) i d leaves =
      checkDump rest (i + (trs.flatMap NodeTree.dump).length) (d + trs.length) leaves' := by
  induction trs generalizing i d leaves with
  | nil => exact ⟨leaves, rfl⟩
  | cons tr trs ih =>
    obtain ⟨leaves', h⟩ := ih (i + tr.dump.length) (d + 1) (leaves + tr.leafCount)
    refine ⟨leaves', ?_⟩
    rw [List.flatMap_cons, List.append_assoc, checkDump_dump, h, List.length_append, List.length_cons, Nat.add_assoc,
      Nat.add_assoc, Nat.add_comm 1]

theorem checkDump_eq_bad_iff {t : List Byte} {o : Nat} :
    checkDump t 0 0 0 = .bad o ↔
      ∃ trs : List NodeTree, trs.flatMap NodeTree.dump = t.take o ∧ DumpFault t o trs.length := by
  constructor
  · intro h
    obtain ⟨ts, t', ht, rfl, hfault⟩ := dumpFault_of_checkDump (ts := []) h
    obtain rfl : stackDump ts ++ t' = t := ht
    exact ⟨ts.reverse, by rw [List.take_left]; rfl, by rwa [List.length_reverse, dumpFault_append]⟩
  · rintro ⟨trs, htake, hfault⟩
    have hlen : (t.take o).length = o := List.length_take_of_le hfault.le_length
    have hrest : DumpFault (t.drop o) 0 trs.length := by
      rwa [← dumpFault_append (t.take o), List.take_append_drop, hlen]
    obtain ⟨leaves, h⟩ := checkDump_dumps trs (t.drop o) 0 0 0
    rwa [htake, List.take_append_drop, hlen, Nat.zero_add, Nat.zero_add, checkDump_of_dumpFault hrest] at h

theorem checkDump_eq_good_iff {t : List Byte} {leaves : Nat} :
    checkDump t 0 0 0 = .good leaves ↔ ∃ tr : NodeTree, tr.dump = t ∧ tr.leafCount = leaves := by
  constructor
  · intro h
    obtain ⟨tr, ht, hleaves⟩ := dump_of_checkDump h
    exact ⟨tr, ht.symm, hleaves⟩
  · rintro ⟨tr, rfl, rfl⟩
    exact checkDump_of_dump tr

/-- Settles O47: the scan stands after complete dumps wherever it meets a fault, and meets one wherever it stands before it. -/
theorem checkDumpAcceptsExactlyTreeDumps : Obligations.CheckDumpAcceptsExactlyTreeDumps := by
  unfold Obligations.CheckDumpAcceptsExactlyTreeDumps
  exact fun t => ⟨fun leaves => checkDump_eq_good_iff, fun o => checkDump_eq_bad_iff⟩

/-! ## DESERIALIZE's refusals -/

/-- A length up to DUMP_MAX (00_scope.md R7) is read. -/
theorem not_dumpMax_lt {n : Nat} (h : n ≤ 767) : ¬ dumpMax < n := Nat.not_lt.2 h

section
variable {s u : State} {t : List Byte}

theorem exec_deserialize_tooLong (he : s.err = false) (hsize : 767 < s.hdrTsize.toNat) :
    exec .deserialize s = .next (s.raise .eDump (value s.hdrTsize.toNat)) := by
  rw [exec, execDeserialize, unlessHalted_running he]
  exact if_pos hsize

theorem freeSlots_sourceRead {n : Nat} (hread : s.sourceRead n = some (t, u)) : u.freeSlots = s.freeSlots := by
  rw [(sourceRead_eq hread).2]
  rfl

variable (he : s.err = false) (hsize : s.hdrTsize.toNat ≤ 767) (hread : s.sourceRead s.hdrTsize.toNat = some (t, u))
include he hsize hread

theorem exec_deserialize_short (hshort : t.length < s.hdrTsize.toNat) :
    exec .deserialize s = .next (u.raise .eTrunc (value t.length)) := by
  simp only [exec, execDeserialize, unlessHalted_running he, if_neg (not_dumpMax_lt hsize), hread, if_pos hshort]

theorem exec_deserialize_malformed {o : Nat} (hlen : t.length = s.hdrTsize.toNat)
    (hcheck : checkDump t 0 0 0 = .bad o) : exec .deserialize s = .next (u.raise .eDump (value o)) := by
  simp only [exec, execDeserialize, unlessHalted_running he, if_neg (not_dumpMax_lt hsize), hread,
    if_neg hlen.not_lt, hcheck]

theorem exec_deserialize_fewSlots {leaves : Nat} (hlen : t.length = s.hdrTsize.toNat)
    (hcheck : checkDump t 0 0 0 = .good leaves) (hfew : u.freeSlots < 2 * leaves - 1) :
    exec .deserialize s = .next (u.raise .eNoMem (value u.freeSlots)) := by
  simp only [exec, execDeserialize, unlessHalted_running he, if_neg (not_dumpMax_lt hsize), hread,
    if_neg hlen.not_lt, hcheck, if_pos hfew]

end

/-- Settles O49: one refusal for each check of the command; the read leaves the arena as it was. -/
theorem deserializeRefusesInOrder : Obligations.DeserializeRefusesInOrder := by
  unfold Obligations.DeserializeRefusesInOrder
  intro s he
  refine ⟨exec_deserialize_tooLong he, fun t u hsize hread => ⟨exec_deserialize_short he hsize hread,
    fun o => exec_deserialize_malformed he hsize hread, fun leaves hlen hcheck hfew => ?_⟩⟩
  rw [← freeSlots_sourceRead hread] at hfew ⊢
  exact exec_deserialize_fewSlots he hsize hread hlen hcheck hfew

end Sys2Proof.Machine
end

section
/-! SUPPORT. READBIT (spec/46_bitstream.md R311, R316): the bit at RD_CUR, or the first bit of a refill, which writes only its own
bytes of the buffer. -/

namespace Sys2Proof.Machine

section
variable {s u : State}

theorem getD_map_range {α : Type} (f : Nat → α) (n j : Nat) (d : α) :
    ((List.range n).map f).getD j d = if j < n then f j else d := by
  by_cases hj : j < n <;> simp [List.getD_eq_getElem?_getD, hj]

/-- A refill writes its bytes to the buffer and leaves every later bit. -/
theorem bufBit_load (s : State) {t : List Byte} (ht : t.length ≤ 8192) (j : Nat) :
    (s.load t).bufBit j = (bitsOf t).getD j (s.bufBit j) := by
  have hbits : bitsOf t = (List.range (8 * t.length)).map (s.load t).bufBit := by
    rw [← bitsOf_bufBytes, bufBytes_load s ht]
  rw [hbits, getD_map_range]
  split
  · rfl
  · exact (putBytes_getLsbD t s.buf 0 j (by omega)).trans (if_neg (by omega))

theorem readBit_loaded (h : s.rdCur ≠ s.rdEnd) : s.readBit = .bit (s.bufBit s.rdCur) { s with rdCur := s.rdCur + 1 } :=
  if_neg h

theorem readBit_ended (hused : s.rdCur = s.rdEnd) (hread : s.sourceRead s.params.blockBytes = some ([], u)) :
    s.readBit = .exhausted u := by
  rw [State.readBit, if_pos hused, hread]

theorem readBit_refilled {b : Byte} {t : List Byte} (hused : s.rdCur = s.rdEnd)
    (hread : s.sourceRead s.params.blockBytes = some (b :: t, u)) :
    s.readBit = .bit ((u.load (b :: t)).bufBit 0) { u.load (b :: t) with rdCur := 1 } := by
  rw [State.readBit, if_pos hused, hread]
  rfl

theorem exec_readBit_bit {b : Bool} (he : s.err = false) (h : s.readBit = .bit b u) :
    exec .readBit s = .next (u.respond .ok (if b then 1 else 0)) := by
  rw [exec, execReadBit, unlessHalted_running he, h]
  rfl

theorem exec_readBit_exhausted (he : s.err = false) (h : s.readBit = .exhausted u) :
    exec .readBit s = .next (u.respond .exhausted 0) := by
  rw [exec, execReadBit, unlessHalted_running he, h]
  rfl

end

/-- Settles O54: a bit of the loaded block, a refill, or a refill of nothing. -/
theorem readBitAnswersTheNextBit : Obligations.ReadBitAnswersTheNextBit := by
  unfold Obligations.ReadBitAnswersTheNextBit
  intro s he
  refine ⟨fun hloaded => exec_readBit_bit he (readBit_loaded hloaded), fun hused =>
    ⟨fun u hread => exec_readBit_exhausted he (readBit_ended hused hread), fun b t u hread => ?refilled⟩⟩
  obtain ⟨hlen, hframe⟩ := sourceRead_eq hread
  have hload := bufBit_load u (Nat.le_trans hlen (Params.blockBytes_le _))
  have hbuf : u.bufBit = s.bufBit := by rw [hframe]; rfl
  have hfirst : (u.load (b :: t)).bufBit 0 = b.getLsbD 0 := hload 0
  refine ⟨(u.load (b :: t)).buf, ?_, fun j => hbuf ▸ hload j⟩
  rw [← hfirst]
  exact exec_readBit_bit he (readBit_refilled hused hread)

end Sys2Proof.Machine
end

section
/-! SUPPORT. A block that the sink refuses (spec/46_bitstream.md R310, R317, R318): the code's bits up to the one that fills it are
appended, over any number of blocks sent whole, and then the command ends. -/

namespace Sys2Proof.Machine

section
variable {s t : State} {c : List Bool} {b : Bool} {n w : Nat} {plan : List SinkEvent}

/-! ## The refused bit -/

theorem sinkWrite_refused {bs : List Byte} (hw : w < bs.length)
    (hplan : s.sinkPlan = List.replicate w .accept ++ .zeroTransfer :: plan) :
    s.sinkWrite bs = some (w, { s with sinkPlan := plan, sink := s.sink ++ bs.take w }) := by
  rw [State.sinkWrite, hplan, acceptBytes_refused bs w plan hw]

/-- s with the bit b stored and the block it fills refused after w bytes: WR_CUR is 0. -/
def State.refusedAt (s : State) (b : Bool) (w : Nat) (plan : List SinkEvent) : State :=
  { s.stored b with
    wrCur := 0, sinkPlan := plan, sink := s.sink ++ ((s.stored b).bufBytes s.params.blockBytes).take w }

theorem writeBit_refused (hfull : s.wrCur + 1 = s.bufBits) (hw : w < s.params.blockBytes)
    (hplan : s.sinkPlan = List.replicate w .accept ++ .zeroTransfer :: plan) :
    s.writeBit b = .raised ((s.refusedAt b w plan).raise .eSink (value w)) := by
  have hlen := length_bufBytes (s.stored b) s.params.blockBytes
  rw [writeBit_full hfull (sinkWrite_refused (s := s.stored b) (hlen.symm ▸ hw) hplan), if_pos hw]
  rfl

/-! ## The bits before it -/

theorem writeBits_append (h : s.writeBits c = .done t) (p : List Bool) : s.writeBits (c ++ p) = t.writeBits p := by
  induction c generalizing s with
  | nil => cases h; rfl
  | cons b c ih =>
    cases hbit : s.writeBit b with
    | done u =>
      simp only [State.writeBits, hbit] at h
      simp only [List.cons_append, State.writeBits, hbit, ih h]
    | raised u => simp only [State.writeBits, hbit] at h; cases h
    | never => simp only [State.writeBits, hbit] at h; cases h

/-- What the writer has added to the sink and the bits then pending are the bits pending before and the code's. -/
theorem State.Appended.sent (ha : s.Appended c t) (hprefix : s.sink <+: t.sink) :
    ∃ k, t.sink = s.sink ++ k ∧ bitsOf k ++ t.pending = s.pending ++ c := by
  obtain ⟨k, hk⟩ := hprefix
  have hwritten := ha.written
  rw [State.written, State.written, ← hk, bitsOf_append, List.append_assoc, List.append_assoc] at hwritten
  exact ⟨k, hk.symm, List.append_cancel_left hwritten⟩

/-- The writer changes only the buffer, WR_CUR and the sink's side, so with these set anew the states agree. -/
theorem State.Appended.update_eq (ha : s.Appended c t) (u : BitVec 65536) (plan : List SinkEvent) (k : List Byte) :
    { t with buf := u, wrCur := 0, sinkPlan := plan, sink := k } =
      { s with buf := u, wrCur := 0, sinkPlan := plan, sink := k } := by
  rw [ha.frame]

/-- From s to t the writer has appended the bits c and sent n blocks whole, and one more bit fills the next block. -/
structure State.OneBitShort (s : State) (c : List Bool) (n : Nat) (t : State) : Prop where
  appended : s.Appended c t
  sent     : s.sink <+: t.sink
  filled   : s.wrCur + c.length + 1 = (n + 1) * s.bufBits
  full     : t.wrCur + 1 = t.bufBits

/-- A code whose block is refused where the bit b fills it is written up to b. -/
theorem writeBits_refused (hcur : s.wrCur < s.bufBits) (hfilled : s.wrCur + c.length + 1 = (n + 1) * s.bufBits)
    (hw : w < s.params.blockBytes)
    (hplan : s.sinkPlan = List.replicate (n * s.params.blockBytes + w) .accept ++ .zeroTransfer :: plan) (b : Bool) :
    ∃ t, s.OneBitShort c n t ∧
      ∀ p, s.writeBits (c ++ b :: p) = .raised ((t.refusedAt b w plan).raise .eSink (value w)) := by
  have hcount : s.wrCur + c.length = s.bufBits * n + (s.bufBits - 1) := by
    rw [Nat.succ_mul, Nat.mul_comm] at hfilled; omega
  have hsent : s.bytesSent c.length = n * s.params.blockBytes := by
    rw [State.bytesSent, hcount, Nat.mul_add_div s.bufBits_pos, Nat.div_eq_of_lt (by omega), Nat.add_zero]
  rw [List.replicate_add, List.append_assoc] at hplan
  have haccepts : s.SinkAccepts c.length := fun e he => by
    rw [hsent, hplan, List.take_left' List.length_replicate] at he
    exact List.eq_of_mem_replicate he
  obtain ⟨t, hdone, ha⟩ := writeBits_appended hcur haccepts
  have hparams : t.params = s.params := by rw [ha.frame]
  have hfull : t.wrCur + 1 = t.bufBits := by
    rw [ha.wrCur, ha.bufBits, hcount, Nat.mul_add_mod, Nat.mod_eq_of_lt (by omega)]; omega
  have hleft : t.sinkPlan = List.replicate w .accept ++ .zeroTransfer :: plan := by
    rw [ha.sinkPlan, hsent, hplan, List.drop_left' List.length_replicate]
  have hprefix := (((keptByWrites_movedOn s).writeBits c (.refl s)).1 t hdone).sink
  refine ⟨t, ⟨ha, hprefix, hfilled, hfull⟩, fun p => ?_⟩
  rw [writeBits_append hdone, State.writeBits, writeBit_refused hfull (hparams ▸ hw) hleft]

/-! ## The blocks and the buffer -/

/-- The n blocks sent and the one that b fills are the bits pending before, the code's up to b, and b. -/
theorem State.OneBitShort.blocks (h : s.OneBitShort c n t) (b : Bool) :
    ∃ k, t.sink = s.sink ++ k ∧ k.length = n * s.params.blockBytes ∧
      bitsOf (k ++ (t.stored b).bufBytes t.params.blockBytes) = s.pending ++ c ++ [b] := by
  obtain ⟨k, hsink, hbits⟩ := h.appended.sent h.sent
  have hall : bitsOf (k ++ (t.stored b).bufBytes t.params.blockBytes) = s.pending ++ c ++ [b] := by
    rw [bitsOf_append, bitsOf_block h.full b, ← List.append_assoc, hbits]
  have hparams : t.params = s.params := by rw [h.appended.frame]
  have hlen := congrArg List.length hall
  have hfilled := h.filled
  refine ⟨k, hsink, ?_, hall⟩
  rw [s.bufBits_eq, Nat.succ_mul, Nat.mul_left_comm] at hfilled
  rw [length_bitsOf, List.length_append, length_bufBytes, hparams] at hlen
  simp only [State.pending, List.length_append, List.length_map, List.length_range, List.length_singleton] at hlen
  omega

/-- The buffer holds the block that b fills, and beyond it what it held. -/
theorem State.OneBitShort.bufBit_stored (h : s.OneBitShort c n t) (b : Bool) (j : Nat) :
    (t.stored b).bufBit j = ((s.pending ++ c ++ [b]).drop (n * s.bufBits)).getD j (s.bufBit j) := by
  obtain ⟨k, -, hlen, hall⟩ := h.blocks b
  have hbits := h.appended.bufBits
  have hk : (bitsOf k).length = n * s.bufBits := by rw [length_bitsOf, hlen, s.bufBits_eq, Nat.mul_left_comm]
  have hrange : 8 * t.params.blockBytes = s.bufBits := t.bufBits_eq.symm.trans hbits
  rw [← hall, bitsOf_append, List.drop_left' hk, bitsOf_bufBytes, getD_map_range, hrange]
  split
  · rfl
  · next hj =>
    have hout : ∀ i, i % s.bufBits ≠ j := fun i hi => hj (hi ▸ Nat.mod_lt i s.bufBits_pos)
    have hcur : t.wrCur < t.bufBits := Nat.lt_of_succ_le h.full.le
    rw [bufBit_stored_of_ne hcur b fun i _ => hbits ▸ hout _]
    exact h.appended.kept j fun i _ => hout _

theorem writeThenRespond_raised {c : BitCode} (h : s.writeBits c.toList = .raised t) : s.writeThenRespond c = .next t := by
  rw [State.writeThenRespond, h]

end

/-- Settles O57: the bits before b are appended block by block, and the block that b fills ends the command. -/
theorem refusedBlockRaisesSink : Obligations.RefusedBlockRaisesSink := by
  unfold Obligations.RefusedBlockRaisesSink
  intro s c b p n w plan he hcur hfilled hw hplan
  obtain ⟨t, ht, hwrites⟩ := writeBits_refused hcur hfilled hw hplan b
  obtain ⟨k, hsink, hlen, hall⟩ := ht.blocks b
  have hparams : t.params = s.params := by rw [ht.appended.frame]
  have hpart : (((t.stored b).bufBytes t.params.blockBytes).take w).length = w := by
    rw [List.length_take, length_bufBytes, hparams, Nat.min_eq_left hw.le]
  refine ⟨(t.stored b).buf, k ++ ((t.stored b).bufBytes t.params.blockBytes).take w, ?_⟩
  intro t' bits
  have hend : t.refusedAt b w plan = t' := by
    rw [State.refusedAt, hsink, List.append_assoc]
    exact ht.appended.update_eq _ _ _
  have hbits : bits = bitsOf (k ++ (t.stored b).bufBytes t.params.blockBytes) := hall.symm
  rw [hend] at hwrites
  refine ⟨by rw [List.length_append, hpart, hlen], ?bytes, ht.bufBit_stored b, fun hc => ?writeBc, fun x hx hc => ?writeCode⟩
  case bytes =>
    rw [← length_bitsOf, ← List.prefix_iff_eq_take, hbits]
    exact ((List.prefix_append_right_inj k).2 (List.take_prefix _ _)).flatMap _
  case writeBc =>
    change s.unlessHalted _ = _
    rw [unlessHalted_running he]
    exact writeThenRespond_raised (hc ▸ hwrites p)
  case writeCode =>
    change s.unlessHalted _ = _
    rw [unlessHalted_running he, hx]
    exact writeThenRespond_raised (hc ▸ hwrites p)

end Sys2Proof.Machine
end

section
/-! SUPPORT. decode_symbol and DECSYM (spec/46_bitstream.md R320, R321): the bits that are read are the path down the tree. -/

namespace Sys2Proof.Machine

section
variable {s t u : State} {tr tr' : NodeTree} {p q : List Bool} {x : Sym}

/-! ## Runs of bits -/

theorem readsBits_cons_iff {b : Bool} :
    s.readsBits (b :: p) = some u ↔ ∃ t, s.readBit = .bit b t ∧ t.readsBits p = some u := by
  cases hbit : s.readBit with
  | bit b' t => by_cases hb : b' = b <;> simp [State.readsBits, hbit, hb]
  | exhausted t => simp [State.readsBits, hbit]
  | never => simp [State.readsBits, hbit]

theorem readsBits_append_iff :
    s.readsBits (p ++ q) = some u ↔ ∃ t, s.readsBits p = some t ∧ t.readsBits q = some u := by
  induction p generalizing s with
  | nil => simp [State.readsBits]
  | cons b p ih =>
    simp only [List.cons_append, readsBits_cons_iff, ih]
    exact ⟨fun ⟨v, hv, t, ht, hu⟩ => ⟨t, ⟨v, hv, ht⟩, hu⟩, fun ⟨t, ⟨v, hv, ht⟩, hu⟩ => ⟨v, hv, t, ht, hu⟩⟩

/-! ## decode_symbol -/

/-- decode_symbol goes down the path of the bits it reads. -/
theorem decodeSymbol_sub (hsub : tr.sub p = some tr') (hread : s.readsBits p = some u) (j : Nat) :
    s.decodeSymbol tr j = u.decodeSymbol tr' (j + p.length) := by
  induction p generalizing s tr j with
  | nil =>
    cases hread
    cases tr <;> (cases hsub; rfl)
  | cons b p ih =>
    obtain ⟨t, hbit, hrest⟩ := readsBits_cons_iff.1 hread
    rw [List.length_cons, Nat.add_comm p.length, ← Nat.add_assoc]
    cases tr with
    | leaf n x => cases hsub
    | node n l r =>
      cases b <;> simp only [State.decodeSymbol, hbit]
      · exact ih (tr := l) hsub hrest (j + 1)
      · exact ih (tr := r) hsub hrest (j + 1)

theorem decodeSymbol_reaches (hx : tr.Reaches p x) (hread : s.readsBits p = some u) (j : Nat) :
    s.decodeSymbol tr j = .symbol x u := by
  obtain ⟨n, hsub⟩ := hx
  rw [decodeSymbol_sub hsub hread]
  rfl

theorem decodeSymbol_stopsInside (hstop : tr.StopsInside p) (hread : s.readsBits p = some t) (hend : t.readBit = .exhausted u)
    (j : Nat) : s.decodeSymbol tr j = .exhausted (j + p.length) u := by
  obtain ⟨n, l, r, hsub⟩ := hstop
  rw [decodeSymbol_sub hsub hread, State.decodeSymbol, hend]

/-! ## Leaf roots -/

theorem isLeaf_iff_of_treeAt {n : NodeIx} (h : s.treeAt n = some tr) : (s.node n).isLeaf = true ↔ tr.height = 0 := by
  obtain ⟨rfl, hspells⟩ := treeAt_eq_some_iff.1 h
  cases tr with
  | leaf n x => exact iff_of_true hspells.2.1 rfl
  | node n l r => exact iff_of_false (Bool.eq_false_iff.1 hspells.2.1) (Nat.succ_ne_zero _)

theorem height_ne_zero_of_reaches (h : tr.Reaches p x) (hp : p ≠ []) : tr.height ≠ 0 := by
  cases tr with
  | leaf m y => exact absurd (reaches_leaf.1 h).1 hp
  | node m l r => exact Nat.succ_ne_zero _

theorem height_ne_zero_of_stopsInside (h : tr.StopsInside p) : tr.height ≠ 0 := by
  obtain ⟨n, l, r, hsub⟩ := h
  cases tr with
  | leaf m x => cases p <;> cases hsub
  | node m l' r' => exact Nat.succ_ne_zero _

/-! ## DECSYM -/

section
variable (he : s.err = false) (hv : s.valid s.root = true) (ht : s.treeAt s.root = some tr)
include he hv ht

theorem exec_decSym_leaf (hleaf : tr.height = 0) : exec .decSym s = .next (s.raise .eDegen (value s.root.toNat)) := by
  rw [exec, execDecSym, unlessHalted_running he, State.withRoot, withNode_valid hv, if_pos ((isLeaf_iff_of_treeAt ht).2 hleaf),
    setWidth_eq_value]

theorem exec_decSym_symbol (hinner : tr.height ≠ 0) (h : s.decodeSymbol tr 0 = .symbol x u) :
    exec .decSym s = .next (u.respond .ok (value x.toNat)) := by
  rw [exec, execDecSym, unlessHalted_running he, State.withRoot, withNode_valid hv,
    if_neg (mt (isLeaf_iff_of_treeAt ht).1 hinner), withTree_some ht, h, ← setWidth_eq_value]

theorem exec_decSym_exhausted {j : Nat} (hinner : tr.height ≠ 0) (h : s.decodeSymbol tr 0 = .exhausted j u) :
    exec .decSym s = .next (u.raise .eTrunc (value j)) := by
  rw [exec, execDecSym, unlessHalted_running he, State.withRoot, withNode_valid hv,
    if_neg (mt (isLeaf_iff_of_treeAt ht).1 hinner), withTree_some ht, h]

end

end

/-- Settles O59: decode_symbol goes down the path of the bits it reads, from a root that is no leaf where it reads one. -/
theorem decSymFollowsTheBits : Obligations.DecSymFollowsTheBits := by
  unfold Obligations.DecSymFollowsTheBits
  intro s tr he hv ht
  refine ⟨fun n x hleaf => ?leaf, fun p x u hp hx hread => ?symbol, fun p t u hstop hread hend => ?ended⟩
  case leaf => exact exec_decSym_leaf he hv ht (by rw [hleaf]; rfl)
  case symbol => exact exec_decSym_symbol he hv ht (height_ne_zero_of_reaches hx hp) (decodeSymbol_reaches hx hread 0)
  case ended =>
    have h := decodeSymbol_stopsInside hstop hread hend 0
    rw [Nat.zero_add] at h
    exact exec_decSym_exhausted he hv ht (height_ne_zero_of_stopsInside hstop) h

end Sys2Proof.Machine
end

section
/-! SUPPORT. DECODE (spec/46_bitstream.md R322): the bit reader does not look at the sink, so what the loop reads between its writes
are the bits it would read without them. -/

namespace Sys2Proof.Machine

/-! ## Reading with another sink -/

/-- s with another sink: its plan and the bytes it has. -/
def State.withSink (s : State) (plan : List SinkEvent) (k : List Byte) : State := { s with sinkPlan := plan, sink := k }

/-- The end of read_bit with another sink. -/
def BitRun.withSink (plan : List SinkEvent) (k : List Byte) : BitRun → BitRun
  | .bit b t => .bit b (t.withSink plan k)
  | .exhausted t => .exhausted (t.withSink plan k)
  | .never => .never

section
variable {s u : State} {p : List Bool} (plan : List SinkEvent) (k : List Byte)

theorem sourceRead_withSink (s : State) (n : Nat) :
    (s.withSink plan k).sourceRead n = (s.sourceRead n).map fun r => (r.1, r.2.withSink plan k) := by
  unfold State.sourceRead
  dsimp only [State.withSink]
  split <;> rfl

/-- The bit reader does not look at the sink. -/
theorem readBit_withSink (s : State) : (s.withSink plan k).readBit = s.readBit.withSink plan k := by
  by_cases hused : s.rdCur = s.rdEnd
  · have hread : (s.withSink plan k).sourceRead (s.withSink plan k).params.blockBytes = _ :=
      sourceRead_withSink plan k s s.params.blockBytes
    have hused' : (s.withSink plan k).rdCur = (s.withSink plan k).rdEnd := hused
    rw [State.readBit, if_pos hused', hread, State.readBit, if_pos hused]
    rcases s.sourceRead s.params.blockBytes with _ | ⟨_ | _, _⟩ <;> rfl
  · rw [readBit_loaded hused, readBit_loaded (s := s.withSink plan k) hused]
    rfl

theorem readsBits_withSink (h : s.readsBits p = some u) : (s.withSink plan k).readsBits p = some (u.withSink plan k) := by
  induction p generalizing s with
  | nil => cases h; rfl
  | cons b p ih =>
    obtain ⟨t, hbit, hrest⟩ := readsBits_cons_iff.1 h
    refine readsBits_cons_iff.2 ⟨t.withSink plan k, ?_, ih hrest⟩
    rw [readBit_withSink, hbit]
    rfl

theorem hdrFsize_readsBits (h : s.readsBits p = some u) : u.hdrFsize = s.hdrFsize := by
  induction p generalizing s with
  | nil => cases h; rfl
  | cons b p ih =>
    obtain ⟨t, hbit, hrest⟩ := readsBits_cons_iff.1 h
    rw [ih hrest, readBit_bit hbit]

end

/-! ## One round of the loop -/

section
variable {s t u : State} {tr : NodeTree} {p : List Bool} {x : Sym} {plan : List SinkEvent} {k : List Byte}

theorem decodeLoop_accepted (hx : tr.Reaches p x) (hread : s.readsBits p = some u) (hplan : ∀ e ∈ plan.take 1, e = .accept)
    (left i : Nat) :
    (s.withSink plan k).decodeLoop tr (left + 1) i = (u.withSink (plan.drop 1) (k ++ [x])).decodeLoop tr left (i + 1) := by
  have hsink := sinkWrite_accepted (s := u.withSink plan k) (bs := [x]) hplan
  rw [State.decodeLoop, decodeSymbol_reaches hx (readsBits_withSink plan k hread)]
  dsimp only
  rw [hsink]
  rfl

theorem decodeLoop_refused (hx : tr.Reaches p x) (hread : s.readsBits p = some u) (left i : Nat) :
    (s.withSink (.zeroTransfer :: plan) k).decodeLoop tr (left + 1) i =
      .next ((u.withSink plan k).raise .eSink (value i)) := by
  have hsink := sinkWrite_refused (s := u.withSink (.zeroTransfer :: plan) k) (bs := [x]) (plan := plan) Nat.zero_lt_one rfl
  rw [List.take_zero, List.append_nil] at hsink
  rw [State.decodeLoop, decodeSymbol_reaches hx (readsBits_withSink _ k hread)]
  dsimp only
  rw [hsink]
  rfl

theorem decodeLoop_ended (hstop : tr.StopsInside p) (hread : s.readsBits p = some t) (hend : t.readBit = .exhausted u)
    (left i : Nat) :
    (s.withSink plan k).decodeLoop tr (left + 1) i = .next ((u.withSink plan k).raise .eTrunc (value i)) := by
  have hend' : (t.withSink plan k).readBit = .exhausted (u.withSink plan k) := by rw [readBit_withSink, hend]; rfl
  rw [State.decodeLoop, decodeSymbol_stopsInside hstop (readsBits_withSink plan k hread) hend']

/-! ## Many rounds -/

/-- The loop sends the symbols that the bits spell while the sink accepts them. -/
theorem decodeLoop_symbols {xs : List Sym} {ps : List (List Bool)} (hxs : List.Forall₂ (fun x p => tr.Reaches p x) xs ps)
    (hread : s.readsBits ps.flatten = some u) (hplan : ∀ e ∈ plan.take xs.length, e = .accept) (left i : Nat) :
    (s.withSink plan k).decodeLoop tr (xs.length + left) i =
      (u.withSink (plan.drop xs.length) (k ++ xs)).decodeLoop tr left (i + xs.length) := by
  induction hxs generalizing s plan k i with
  | nil =>
    cases hread
    simp
  | @cons x p xs ps hx _ ih =>
    obtain ⟨t, hfirst, hrest⟩ := readsBits_append_iff.1 hread
    rw [List.length_cons, Nat.add_comm, List.take_add] at hplan
    have hnext := ih (k := k ++ [x]) hrest (fun e he => hplan e (List.mem_append_right _ he)) (i + 1)
    rw [List.length_cons, Nat.add_right_comm,
      decodeLoop_accepted hx hfirst (fun e he => hplan e (List.mem_append_left _ he)), hnext, List.drop_drop,
      List.append_assoc, List.singleton_append, Nat.add_assoc, Nat.add_comm 1]

end

theorem forall₂_append_left {α β : Type} {R : α → β → Prop} {xs ys : List α} {ps : List β} (h : List.Forall₂ R (xs ++ ys) ps) :
    ∃ ps₁ ps₂, ps = ps₁ ++ ps₂ ∧ List.Forall₂ R xs ps₁ ∧ List.Forall₂ R ys ps₂ :=
  ⟨ps.take xs.length, ps.drop xs.length, (List.take_append_drop _ _).symm,
    (List.forall₂_take_append ps xs ys h.flip).flip, (List.forall₂_drop_append ps xs ys h.flip).flip⟩

/-! ## The command -/

section
variable {s : State} {tr : NodeTree} (he : s.err = false) (hv : s.valid s.root = true)
include he hv

theorem exec_decodeAll_zero (hzero : s.hdrFsize = 0) : exec .decodeAll s = .next (s.respond .ok 0) := by
  rw [exec, execDecodeAll, unlessHalted_running he, State.withRoot, withNode_valid hv, if_pos hzero]

variable (ht : s.treeAt s.root = some tr)
include ht

theorem exec_decodeAll_leaf (hsome : s.hdrFsize ≠ 0) (hleaf : tr.height = 0) :
    exec .decodeAll s = .next (s.raise .eDegen (value s.root.toNat)) := by
  rw [exec, execDecodeAll, unlessHalted_running he, State.withRoot, withNode_valid hv, if_neg hsome,
    if_pos ((isLeaf_iff_of_treeAt ht).2 hleaf), setWidth_eq_value]

/-- With a root that is no leaf DECODE is its loop, which has no round where HDR_FSIZE is 0. -/
theorem exec_decodeAll_inner (hinner : tr.height ≠ 0) : exec .decodeAll s = s.decodeLoop tr s.hdrFsize.toNat 0 := by
  by_cases hzero : s.hdrFsize = 0
  · have hrounds : s.hdrFsize.toNat = 0 := congrArg BitVec.toNat hzero
    rw [exec_decodeAll_zero he hv hzero, hrounds, State.decodeLoop, hzero]
  · rw [exec, execDecodeAll, unlessHalted_running he, State.withRoot, withNode_valid hv, if_neg hzero,
      if_neg (mt (isLeaf_iff_of_treeAt ht).1 hinner), withTree_some ht]

/-- DECODE after the symbols xs, each accepted by the sink as it was decoded. -/
theorem exec_decodeAll_symbols {u : State} {xs : List Sym} {ps : List (List Bool)} (left : Nat) (hinner : tr.height ≠ 0)
    (hcount : s.hdrFsize.toNat = xs.length + left) (hplan : ∀ e ∈ s.sinkPlan.take xs.length, e = .accept)
    (hxs : List.Forall₂ (fun x p => tr.Reaches p x) xs ps) (hread : s.readsBits ps.flatten = some u) :
    exec .decodeAll s = (u.withSink (s.sinkPlan.drop xs.length) (s.sink ++ xs)).decodeLoop tr left xs.length := by
  have h := decodeLoop_symbols (k := s.sink) hxs hread hplan left 0
  rw [exec_decodeAll_inner he hv ht hinner, hcount]
  rwa [Nat.zero_add] at h

end

/-- Settles O60: DECODE's loop sends the symbols of the first codes, and what comes next ends it: the count, the end of the
stream, or a byte refused. -/
theorem decodeWritesTheDeclaredSymbols : Obligations.DecodeWritesTheDeclaredSymbols := by
  unfold Obligations.DecodeWritesTheDeclaredSymbols
  intro s tr he hv ht
  refine ⟨exec_decodeAll_zero he hv, fun n x hsome hleaf => exec_decodeAll_leaf he hv ht hsome (by rw [hleaf]; rfl),
    fun xs ps u hinner hcount hplan hxs hread => ?whole,
    fun xs ps p t u hinner hlt hplan hxs hstop hread hend => ?ended,
    fun xs x ps plan u hinner hlt hplan hxs hread => ?refused⟩
  case whole =>
    rw [exec_decodeAll_symbols he hv ht 0 hinner hcount.symm hplan hxs hread, ← hdrFsize_readsBits hread]
    rfl
  case ended =>
    obtain ⟨left, hcount⟩ := Nat.exists_eq_add_of_lt hlt
    obtain ⟨v, hsymbols, hinside⟩ := readsBits_append_iff.1 hread
    rw [exec_decodeAll_symbols he hv ht (left + 1) hinner hcount hplan hxs hsymbols]
    exact decodeLoop_ended hstop hinside hend left xs.length
  case refused =>
    obtain ⟨left, hcount⟩ := Nat.exists_eq_add_of_lt hlt
    obtain ⟨ps, qs, rfl, hfirst, hlast⟩ := forall₂_append_left hxs
    obtain ⟨p, qs, hx, hnil, rfl⟩ := List.forall₂_cons_left_iff.1 hlast
    obtain rfl := List.forall₂_nil_left_iff.1 hnil
    rw [List.flatten_append, List.flatten_singleton] at hread
    obtain ⟨v, hsymbols, hrefused⟩ := readsBits_append_iff.1 hread
    have haccepts : ∀ e ∈ s.sinkPlan.take xs.length, e = .accept := fun e he => by
      rw [hplan, List.take_left' List.length_replicate] at he
      exact List.eq_of_mem_replicate he
    rw [exec_decodeAll_symbols he hv ht (left + 1) hinner hcount haccepts hfirst hsymbols, hplan,
      List.drop_left' List.length_replicate]
    exact decodeLoop_refused hx hrefused left xs.length

end Sys2Proof.Machine
end

section
/-! SUPPORT. The error halt (spec/60_exceptions.md R354, R355): which commands are served there, and what leaves it. The reset
state (spec/70_reset_and_hazards.md R381) and the invariants it meets. -/

namespace Sys2Proof.Machine

/-! ## Ending a command -/

/-- Settles O11: both are defined by what they store. -/
theorem respondAndRaiseStoreTheirCode : Obligations.RespondAndRaiseStoreTheirCode := by
  unfold Obligations.RespondAndRaiseStoreTheirCode
  exact fun s c v => ⟨rfl, rfl⟩

/-! ## The reset state -/

/-- Settles O10: the reset state has the items of any state just reset. -/
theorem resetStateHasTheResetValues : Obligations.ResetStateHasTheResetValues := by
  unfold Obligations.ResetStateHasTheResetValues
  exact resetItems_resetBlock State.reset

/-- Settles O24: the queue is empty and no node is live; the ranges depend on stores that have the contents of any state just
reset. -/
theorem resetMeetsEveryInvariant : Obligations.ResetMeetsEveryInvariant := by
  unfold Obligations.ResetMeetsEveryInvariant
  obtain ⟨hbc, hct⟩ := State.CodesInRange.resetBlock State.reset
  obtain ⟨htop, hcap⟩ := State.StackInRange.resetBlock State.reset
  have hbounds : State.reset.Bounds :=
    ⟨hbc, hct, htop, hcap, .inl rfl, State.reset.bufBits_pos, Nat.le_refl _, Nat.zero_le _, rfl, reset_wf⟩
  exact ⟨⟨rfl, Code.noConfusion⟩, hbounds, queueOrdered_of_empty rfl,
    State.Forest.of_arena_eq (s := State.reset.resetBlock) rfl (State.Forest.resetBlock _)⟩

/-- Settles O8: an idle step is waiting, and a power-on is a reset, which answers nothing. -/
theorem stepWaitsOrPowersOn : Obligations.StepWaitsOrPowersOn := by
  unfold Obligations.StepWaitsOrPowersOn
  refine ⟨fun s hport => by simp only [step, hport], fun s rest hport => ?_⟩
  exact ⟨State.resetBlock { s with port := rest }, by simp only [step, hport], resetItems_resetBlock _,
    sameEnvironment_resetBlock _, rfl⟩

/-! ## The commands of the error halt -/

section
variable {s : State} {c : Command}

theorem decode_eq_instr_iff_encode {i : Instr} : decode c = .instr i ↔ c = encode i :=
  ⟨fun h => (encodeOfDecodeIsTheCommand c i h).symm, fun h => h ▸ decodeOfEncodeIsTheInstruction i⟩

/-- The low half of CMD is OP and A (R131). -/
theorem cmd_low_eq_iff : c.cmd.toNat % 2 ^ 16 = 0x0002 ↔ c.op = 0x02 ∧ c.a = 0 := by
  simp only [Command.op, Command.a, ← BitVec.toNat_inj, BitVec.extractLsb'_toNat, Nat.shiftRight_eq_div_pow,
    BitVec.toNat_ofNat, BitVec.ofNat_eq_ofNat]
  omega

theorem eq_encode_regRead_iff {r : BitVec 16} :
    c = encode (.regRead r) ↔ (c.cmd.toNat % 2 ^ 16 = 0x0002 ∧ c.d = 0) ∧ c.b = r := by
  rw [cmd_low_eq_iff]
  constructor
  · rintro rfl
    simp [encode]
  · rintro ⟨⟨⟨hop, ha⟩, hd⟩, hb⟩
    exact (Command.make_eq hop ha hb hd).symm

theorem b_toNat (c : Command) : c.b.toNat = c.cmd.toNat / 2 ^ 16 := by
  have := c.cmd.isLt
  simp only [Command.b, BitVec.extractLsb'_toNat, Nat.shiftRight_eq_div_pow]
  omega

/-- Every instruction but RESET and REG_READ first checks the error halt. -/
theorem exec_halted {i : Instr} (he : s.err = true) (hreset : i ≠ .reset) (hread : ∀ r, i ≠ .regRead r) :
    exec i s = .next (s.reply .halted 0) := by
  cases i with
  | reset => exact absurd rfl hreset
  | regRead r => exact absurd rfl (hread r)
  | _ => exact unlessHalted_halted he _

theorem refuseCommand_halted (he : s.err = true) (c : Command) : s.refuseCommand c = s.reply .halted 0 := if_pos he

theorem perform_encode (s : State) (i : Instr) : s.perform (encode i) = exec i s := by
  rw [State.perform, decodeOfEncodeIsTheInstruction]

/-- In the error halt every other command, well-formed or not, is refused (R354). -/
theorem perform_halted (he : s.err = true) (hreset : c ≠ encode .reset) (hread : ∀ r, c ≠ encode (.regRead r)) :
    s.perform c = .next (s.reply .halted 0) := by
  unfold State.perform
  split
  case h_1 i hi =>
    obtain rfl := decode_eq_instr_iff_encode.1 hi
    exact exec_halted he (fun h => hreset (h ▸ rfl)) fun r h => hread r (h ▸ rfl)
  all_goals rw [refuseCommand_halted he]

/-- In the error halt REG_READ answers the register's content, or HALTED, and stores neither (R162). -/
theorem perform_regRead_halted (he : s.err = true) (hread : c.cmd.toNat % 2 ^ 16 = 0x0002 ∧ c.d = 0) :
    s.perform c = .next (s.registerValues[c.cmd.toNat / 2 ^ 16]?.elim (s.reply .halted 0) (s.reply .ok)) := by
  have hc : s.perform c = execRegRead c.b s :=
    (congrArg s.perform (eq_encode_regRead_iff.2 ⟨hread, rfl⟩)).trans (perform_encode s (.regRead c.b))
  rw [hc, execRegRead, ← b_toNat, registerValues_getElem?, he]
  cases regOf? c.b with
  | none => rfl
  | some g => rfl

end

/-- Settles O12: the command is RESET, a REG_READ, or refused. -/
theorem errorHaltServesOnlyResetAndRegRead : Obligations.ErrorHaltServesOnlyResetAndRegRead := by
  unfold Obligations.ErrorHaltServesOnlyResetAndRegRead
  intro s c rest hport he
  have hu : ({ s with port := rest } : State).err = true := he
  simp only [step, hport]
  split_ifs with hreset hread
  · subst hreset
    exact perform_encode _ .reset
  · rw [perform_regRead_halted hu hread]
    change Host.Outcome.next (s.registerValues[c.cmd.toNat / 2 ^ 16]?.elim _ _) = _
    cases s.registerValues[c.cmd.toNat / 2 ^ 16]? with
    | none => rfl
    | some v => rfl
  · exact perform_halted hu hreset fun r hr => hread (eq_encode_regRead_iff.1 hr).1

/-- Settles O13: with ERR set, waiting keeps the state, and of the commands only RESET answers with ERR clear (R354). -/
theorem onlyResetLeavesTheErrorHalt : Obligations.OnlyResetLeavesTheErrorHalt := by
  unfold Obligations.OnlyResetLeavesTheErrorHalt
  intro s t hstep he ht
  have hleft : ¬ t.err = true := ht ▸ Bool.false_ne_true
  cases hport : s.port with
  | nil =>
    simp only [step, hport] at hstep
    cases hstep
    exact absurd he hleft
  | cons e rest =>
    refine ⟨rest, ?_⟩
    cases e with
    | powerOn => exact .inl rfl
    | command c =>
      by_cases hc : c = ⟨0x00000001, 0⟩
      · exact .inr (by rw [hc])
      · rw [errorHaltServesOnlyResetAndRegRead s c rest hport he, if_neg hc] at hstep
        refine absurd ?_ hleft
        cases hstep
        split_ifs
        · split <;> exact he
        · exact he

end Sys2Proof.Machine
end

section
/-! SUPPORT. The code each command answers with outside the error halt (spec/60_exceptions.md R350, R351), and that a failure which
is not fatal leaves the state as the command found it (R357). -/

namespace Sys2Proof.Machine

/-- Outside the error halt a command on s may have this outcome, its codes being cs: OK, a failure that leaves s as it is, EXHAUSTED
after asking the source, an error raised, or a stop. -/
inductive State.Answers (s : State) (cs : List Code) : Result → Prop
  | ok {u : State} {v : Value} (hc : .ok ∈ cs := by simp [mayAnswer]) : s.Answers cs (.next (u.respond .ok v))
  | failed {c : Code} (hnonfatal : c = .full ∨ c = .empty := by simp) (hc : c ∈ cs := by simp [mayAnswer]) :
    s.Answers cs (.next (s.fail c))
  | exhausted {src : List SourceEvent} (hc : .exhausted ∈ cs := by simp [mayAnswer]) :
    s.Answers cs (.next (State.fail { s with source := src } .exhausted))
  | raised {u : State} {c : Code} {v : Value} (hfatal : c.isFatal = true := by rfl) (hc : c ∈ cs := by simp [mayAnswer]) :
    s.Answers cs (.next (u.raise c v))
  | stops {f : Fault} : s.Answers cs (.fault f)

section
variable {s : State} {cs : List Code} {k : Result}

theorem answers_unlessHalted (he : s.err = false) (hk : s.Answers cs k) : s.Answers cs (s.unlessHalted k) := by
  rwa [unlessHalted_running he]

theorem answers_withNode {n : NodeIx} (hk : s.Answers cs k) (hc : .eOperand ∈ cs := by simp [mayAnswer]) :
    s.Answers cs (s.withNode n k) := by
  cases hv : s.valid n with
  | true => rwa [withNode_valid hv]
  | false => rw [withNode_invalid hv]; exact .raised rfl hc

theorem answers_withTree {n : NodeIx} {k : NodeTree → Result} (hk : ∀ t, s.Answers cs (k t)) :
    s.Answers cs (s.withTree n k) := by
  unfold State.withTree
  split
  · exact hk _
  · exact .stops

theorem answers_withBufIndex {i : BitVec 16} {u : State} (hu : s.Answers cs (.next u))
    (hc : .eOperand ∈ cs := by simp [mayAnswer]) : s.Answers cs (.next (s.withBufIndex i u)) := by
  unfold State.withBufIndex
  split
  · exact .raised rfl hc
  · exact hu

/-- One write to the sink ends in OK or E_SINK. -/
theorem answers_sendThenRespond (bs : List Byte) (v : Value) (hok : .ok ∈ cs := by simp [mayAnswer])
    (hsink : .eSink ∈ cs := by simp [mayAnswer]) : s.Answers cs (s.sendThenRespond bs v) := by
  unfold State.sendThenRespond
  split
  · split
    · exact .raised rfl hsink
    · exact .ok hok
  · exact .stops

/-- The bit writer raises only E_SINK (46_bitstream.md R310). -/
theorem keptByWrites_true : KeptByWrites fun _ => True where
  done _ _ _ _ _ := trivial
  raised u t b _ h := by
    obtain ⟨w, plan, sink, -, rfl⟩ := writeBit_raised h
    exact ⟨_, value w, trivial, rfl⟩

theorem answers_writeThenRespond (c : BitCode) (hok : .ok ∈ cs := by simp [mayAnswer])
    (hsink : .eSink ∈ cs := by simp [mayAnswer]) : s.Answers cs (s.writeThenRespond c) := by
  obtain ⟨-, hraised⟩ := keptByWrites_true.writeBits c.toList (u := s) trivial
  unfold State.writeThenRespond
  split
  · exact .ok hok
  · rename_i t ht
    obtain ⟨u, w, -, rfl⟩ := hraised t ht
    exact .raised rfl hsink
  · exact .stops

/-- DECODE's loop ends in OK, E_TRUNC or E_SINK (46_bitstream.md R322). -/
theorem answers_decodeLoop (tr : NodeTree) (left : Nat) (u : State) (k : Nat) :
    s.Answers (mayAnswer .decodeAll) (u.decodeLoop tr left k) := by
  induction left generalizing u k with
  | zero => exact .ok
  | succ left ih =>
    unfold State.decodeLoop
    split
    · exact .raised
    · exact .stops
    split
    · exact .stops
    split
    · exact .raised
    · exact ih _ _

/-! ## The commands -/

variable (he : s.err = false)
include he

theorem execRegRead_answers (r : BitVec 16) : s.Answers (mayAnswer (.regRead r)) (execRegRead r s) := by
  unfold execRegRead
  rw [he]
  split
  · exact .ok
  · exact .raised

theorem execRegWrite_answers (r : BitVec 16) (v : Value) : s.Answers (mayAnswer (.regWrite r v)) (execRegWrite r v s) := by
  refine answers_unlessHalted he ?_
  split
  case h_1 | h_2 =>
    split
    · exact .raised
    · exact .ok
  case h_3 => exact .ok
  case h_4 =>
    split
    · exact .ok
    · exact .raised
  case h_5 => exact .raised

theorem execNodeLeaf_answers (x : Sym) (f : Value) : s.Answers (mayAnswer (.nodeLeaf x f)) (execNodeLeaf x f s) := by
  refine answers_unlessHalted he ?_
  split
  · exact .failed
  · exact .ok

theorem execNodeJoin_answers (l r : NodeIx) : s.Answers (mayAnswer (.nodeJoin l r)) (execNodeJoin l r s) := by
  refine answers_unlessHalted he <| answers_withNode <| answers_withNode ?_
  split
  · exact .raised
  split
  · exact .raised
  split
  · exact .raised
  split
  · exact .failed
  · exact .ok

theorem execRelease_answers (n : NodeIx) : s.Answers (mayAnswer (.release n)) (execRelease n s) := by
  refine answers_unlessHalted he <| answers_withNode ?_
  split
  · exact .raised
  · exact answers_withTree fun _ => .ok

theorem execBuild_answers : s.Answers (mayAnswer .build) (execBuild s) := by
  refine answers_unlessHalted he ?_
  dsimp only
  split
  · exact .raised
  split
  · exact .raised
  · exact .ok

theorem execDeserialize_answers : s.Answers (mayAnswer .deserialize) (execDeserialize s) := by
  refine answers_unlessHalted he ?_
  dsimp only
  split
  · exact .raised
  split
  · exact .stops
  split
  · exact .raised
  split
  · exact .raised
  split
  · exact .raised
  · exact .ok

theorem execReadBit_answers : s.Answers (mayAnswer .readBit) (execReadBit s) := by
  refine answers_unlessHalted he ?_
  split
  · exact .ok
  · rename_i u h
    rw [(readBit_exhausted h).2]
    exact .exhausted
  · exact .stops

theorem execFlush_answers : s.Answers (mayAnswer .flush) (execFlush s) := by
  refine answers_unlessHalted he ?_
  dsimp only
  split
  · exact .stops
  split
  · exact .raised
  · exact .ok

theorem execDecSym_answers : s.Answers (mayAnswer .decSym) (execDecSym s) := by
  refine answers_unlessHalted he <| answers_withNode ?_
  split
  · exact .raised
  refine answers_withTree fun t => ?_
  split
  · exact .ok
  · exact .raised
  · exact .stops

theorem execDecodeAll_answers : s.Answers (mayAnswer .decodeAll) (execDecodeAll s) := by
  refine answers_unlessHalted he <| answers_withNode ?_
  split
  · exact .ok
  split
  · exact .raised
  · exact answers_withTree fun t => answers_decodeLoop t _ s 0

theorem execHdrRead_answers : s.Answers (mayAnswer .hdrRead) (execHdrRead s) := by
  refine answers_unlessHalted he ?_
  split
  · exact .stops
  dsimp only
  split
  · exact .raised
  split
  · exact .raised
  · exact .ok

/-- How each of the 48 commands answers outside the error halt (R351). -/
theorem exec_answers (i : Instr) : s.Answers (mayAnswer i) (exec i s) := by
  cases i with
  | regRead r => exact execRegRead_answers he r
  | regWrite r v => exact execRegWrite_answers he r v
  | nodeLeaf x f => exact execNodeLeaf_answers he x f
  | nodeJoin l r => exact execNodeJoin_answers he l r
  | release n => exact execRelease_answers he n
  | build => exact execBuild_answers he
  | deserialize => exact execDeserialize_answers he
  | readBit => exact execReadBit_answers he
  | flush => exact execFlush_answers he
  | decSym => exact execDecSym_answers he
  | decodeAll => exact execDecodeAll_answers he
  | hdrRead => exact execHdrRead_answers he
  | reset => exact .ok
  | nop | bcClear | bcSize | bcIsEmpty | bcIsFull | pqClear | pqSize | pqIsEmpty | pqIsFull | nsSize | histClear
  | histSet x c | histAdd x c | histGet x | ctLen x | bsReset => exact answers_unlessHalted he .ok
  | setBit k | clrBit k | getBit k => exact answers_unlessHalted he <| answers_withBufIndex .ok
  | codeTable => exact answers_unlessHalted he <| answers_withNode <| answers_withTree fun _ => .ok
  | bcRender | hdrWrite => exact answers_unlessHalted he <| answers_sendThenRespond _ _
  | serialize =>
    exact answers_unlessHalted he <| answers_withNode <| answers_withTree fun _ => answers_sendThenRespond _ _
  | writeBc => exact answers_unlessHalted he <| answers_writeThenRespond _
  | bcPush b | bcPop | pqDeq | nsPop =>
    refine answers_unlessHalted he ?_
    split
    · exact .ok
    · exact .failed
  | pqEnq n | nsPush n =>
    refine answers_unlessHalted he <| answers_withNode ?_
    split
    · exact .ok
    · exact .failed
  | nsInit c | ctLoadBc x =>
    refine answers_unlessHalted he ?_
    split
    · exact .raised
    · exact .ok
  | nodeRead f n =>
    refine answers_unlessHalted he ?_
    split
    · exact .raised
    · exact answers_withNode .ok
  | ctBit x k =>
    refine answers_unlessHalted he ?_
    split
    · exact .raised
    split
    · exact .raised
    · exact .ok
  | writeCode x =>
    refine answers_unlessHalted he ?_
    split
    · exact .raised
    · exact answers_writeThenRespond _

end

theorem State.Answers.code_mem {s t : State} {cs : List Code} (h : s.Answers cs (.next t)) : t.code ∈ cs := by
  cases h with
  | ok hc | failed _ hc | exhausted hc | raised _ hc => exact hc

/-- A code that is not fatal and not OK was stored on the state the command found, but for the source of an EXHAUSTED. -/
theorem State.Answers.eq_of_failure {s t : State} {cs : List Code} (h : s.Answers cs (.next t))
    (hcode : t.code = .full ∨ t.code = .empty ∨ t.code = .exhausted) :
    t = { s with code := t.code, result := 0, resps := s.resps ++ [⟨t.code, 0⟩], source := t.source } ∧
    (t.code ≠ .exhausted → t.source = s.source) := by
  cases h with
  | ok => simp at hcode
  | failed => exact ⟨rfl, fun _ => rfl⟩
  | exhausted => exact ⟨rfl, fun h => absurd rfl h⟩
  | @raised _ c _ hfatal =>
    obtain rfl | rfl | rfl : c = .full ∨ c = .empty ∨ c = .exhausted := hcode <;> exact absurd hfatal (by decide)

/-- Settles O17: each code has its number, and each command ends in one of the ways R351 gives it. -/
theorem commandsAnswerOnlyTheirCodes : Obligations.CommandsAnswerOnlyTheirCodes := by
  unfold Obligations.CommandsAnswerOnlyTheirCodes
  exact ⟨rfl, fun i s t he h => State.Answers.code_mem (h ▸ exec_answers he i)⟩

/-- Settles O15: the three codes are stored on the state the command found; EXHAUSTED alone has asked the source. -/
theorem nonFatalFailureChangesNothing : Obligations.NonFatalFailureChangesNothing := by
  unfold Obligations.NonFatalFailureChangesNothing
  exact fun i s t he h => State.Answers.eq_of_failure (h ▸ exec_answers he i)

end Sys2Proof.Machine
end

section
/-! SUPPORT. HDR_READ (spec/47_container.md R342, R343): the fields of a header read back from its bytes (R340). -/

namespace Sys2Proof.Machine

/-! ## Little-endian fields -/

/-- `fromLE` reads back the n lowest bytes of a number (00_scope.md R12). -/
theorem fromLe_leBytes (n k : Nat) : fromLe (leBytes n k) = k % 256 ^ n := by
  induction n generalizing k with
  | zero => rw [leBytes, fromLe, Nat.pow_zero, Nat.mod_one]
  | succ n ih =>
    calc fromLe (leBytes (n + 1) k) = k % 256 + 256 * (k / 256 % 256 ^ n) := by rw [leBytes, fromLe, ih, BitVec.toNat_ofNat]
      _ = k % 256 ^ (n + 1) := by rw [Nat.pow_succ', Nat.mod_mul]

/-- A field of n bytes is read back from its bytes. -/
theorem fromLe_extract {w : Nat} (n : Nat) (x : BitVec w) (hw : 2 ^ w = 256 ^ n) :
    fromLe ((List.range n).map fun j => x.extractLsb' (8 * j) 8) = x.toNat := by
  rw [← leBytes_toNat, fromLe_leBytes, ← hw, Nat.mod_eq_of_lt x.isLt]

/-- The four fields of a header, from the places HDR_READ takes them from (R340). -/
theorem fromLe_headerOf (m : BitVec 32) (p t : BitVec 16) (f : BitVec 64) :
    fromLe ((headerOf m p t f).take 4) = m.toNat ∧ fromLe (((headerOf m p t f).drop 4).take 2) = p.toNat ∧
    fromLe (((headerOf m p t f).drop 6).take 2) = t.toNat ∧ fromLe (((headerOf m p t f).drop 8).take 8) = f.toNat :=
  ⟨fromLe_extract 4 m (by norm_num), fromLe_extract 2 p (by norm_num), fromLe_extract 2 t (by norm_num),
    fromLe_extract 8 f (by norm_num)⟩

/-! ## The command -/

section
variable {s : State} {m : BitVec 32} {p n : BitVec 16} {f : BitVec 64} {rest : List SourceEvent}

theorem sourceRead_header (h : s.source = (headerOf m p n f).map .byte ++ rest) :
    s.sourceRead 16 = some (headerOf m p n f, { s with source := rest, taken := s.taken + 16 }) := by
  have hbytes : takeBytes 16 s.source = some (headerOf m p n f, rest) := h ▸ takeBytes_map (headerOf m p n f) rest
  rw [State.sourceRead, hbytes]
  rfl

variable (he : s.err = false)
include he

/-- Fewer than 16 bytes raise E_TRUNC with their number (R342). -/
theorem exec_hdrRead_short {bs : List Byte} {u : State} (hread : s.sourceRead 16 = some (bs, u)) (hshort : bs.length < 16) :
    exec .hdrRead s = .next (u.raise .eTrunc (value bs.length)) := by
  change s.unlessHalted _ = _
  rw [unlessHalted_running he, hread]
  exact congrArg _ (if_pos hshort)

/-- With a whole header the magic is checked before any field is stored (R342, R343). -/
theorem exec_hdrRead_header (h : s.source = (headerOf m p n f).map .byte ++ rest) :
    exec .hdrRead s = .next (
      if m = s.params.magic then
        { s with hdrPerms := p, hdrTsize := n, hdrFsize := f, source := rest, taken := s.taken + 16 }.respond .ok 16
      else { s with source := rest, taken := s.taken + 16 }.raise .eMagic (m.setWidth 64)) := by
  obtain ⟨hm, hp, hn, hf⟩ := fromLe_headerOf m p n f
  have hlen : ¬ (headerOf m p n f).length < 16 := Nat.lt_irrefl 16
  change s.unlessHalted _ = _
  rw [unlessHalted_running he, sourceRead_header h]
  simp only [hm, hp, hn, hf, if_neg hlen, BitVec.ofNat_toNat, BitVec.setWidth_eq, ne_eq, BitVec.toNat_inj, ite_not, value]

end

/-- Settles O52: a whole header, with its magic or another, or fewer bytes than one. -/
theorem hdrReadLoadsTheHeader : Obligations.HdrReadLoadsTheHeader := by
  unfold Obligations.HdrReadLoadsTheHeader
  refine fun s he => ⟨fun p n f rest h => ?_, fun m p n f rest hm h => ?_, fun bs u => exec_hdrRead_short he⟩
  · rw [exec_hdrRead_header he h, if_pos rfl]
  · rw [exec_hdrRead_header he h, if_neg hm]

end Sys2Proof.Machine
end
